-- ==== Sys2Proof/Word.lean ====
section
/-! DEFINITION. The machine's words: the fixed sizes of spec/00_scope.md rule R13. -/

namespace Sys2Proof

/-- A nibble, "range 0–15" (R13): a colour, an alpha or a background value. -/
abbrev Nibble := BitVec 4

/-- A byte: a character of a hex stream, or a packed pair of nibbles (R13). -/
abbrev Byte := BitVec 8

/-- A 16-bit value: an offset of the host offset space, a length or a position (R13, R51, R33 to R36). -/
abbrev Half := BitVec 16

/-- A 32-bit value: a register, a command word, the data of a 32-bit transaction (R13). -/
abbrev Word := BitVec 32

/-- An entry of the lookup ROM, bit 4 VALID and bits 3:0 VALUE (R13, R100). -/
abbrev RomEntry := BitVec 5

end Sys2Proof
end

