-- ==== Sys2Proof/Syntax.lean ====
section
/-! DEFINITION. The command set, spec/30_encoding.md rule R82: one constructor per row of
spec/opcode_table.json. A command word carries no operand (R84), so no constructor has a field. -/

namespace Sys2Proof

/-- The commands of the G3D2 command interface, revision 1 (R4, R82). -/
inductive Instr where
  /-- ACK, word 0x00000000, rule R164. -/
  | ack
  /-- DECODE, word 0x00000001, rule R106. -/
  | decode
  /-- BLEND, word 0x00000002, rule R140. -/
  | blend
deriving DecidableEq, Repr

end Sys2Proof
end

