-- ==== Sys2Proof/WellFormed.lean ====
section
/-! DEFINITION. Well-formed command words: the two checks of spec/30_encoding.md R81 and R86.
An `Instr` has no field, so every `Instr` is well-formed; what can be ill-formed is a word. -/

namespace Sys2Proof

/-- Field OPCODE, bits 7:0 of a command word (R81). -/
abbrev wordOpcode (w : Word) : BitVec 8 := w.extractLsb' 0 8

/-- Field MBZ, bits 31:8 of a command word (R81). -/
abbrev wordMbz (w : Word) : BitVec 24 := w.extractLsb' 8 24

/-- "must be zero; if any of these bits is nonzero, the word is illegal" (R81). -/
abbrev MbzClear (w : Word) : Prop := wordMbz w = 0#24

/-- The OPCODE values that R82 assigns; 0x03 to 0xFF are reserved (R86). -/
abbrev OpcodeAssigned (w : Word) : Prop := (wordOpcode w).toNat < 3

/-- A legal command word (R81, R82, R86). -/
abbrev WordWellFormed (w : Word) : Prop := MbzClear w ∧ OpcodeAssigned w

end Sys2Proof
end

