-- ==== Sys2Proof/Decode.lean ====
section
/-! DEFINITION. Decoding of command words, spec/30_encoding.md R81 to R83, R86, and after it the encoder.
Every command is one 32-bit word delivered by one WR32 (R87); the CMD register takes no bytes (R52). -/

namespace Sys2Proof

/-- Why a word is ILLEGAL (R83, R86). The core records the same IllegalCommand for both (R163). -/
inductive DecodeError where
  /-- A bit of 31:8 is set (R81). -/
  | mustBeZero
  /-- OPCODE is one of the reserved values 0x03 to 0xFF (R86). -/
  | reservedOpcode (opcode : BitVec 8)
deriving DecidableEq, Repr

/-- The opcode assignment of R82. -/
def decodeOpcode (opcode : BitVec 8) : Option Instr :=
  match opcode.toNat with
  | 0 => some .ack
  | 1 => some .decode
  | 2 => some .blend
  | _ => none

/-- The decode of a command word, a total function (R83), read field by field as R81 and R86 say. -/
def decodeCommand (w : Word) : Except DecodeError Instr :=
  if wordMbz w = 0#24 then
    match decodeOpcode (wordOpcode w) with
    | some i => .ok i
    | none => .error (.reservedOpcode (wordOpcode w))
  else .error .mustBeZero

/-- The OPCODE of a command (R82). -/
def opcodeOf : Instr → BitVec 8
  | .ack => 0x00#8
  | .decode => 0x01#8
  | .blend => 0x02#8

/-- The word of a command: MBZ zero, then OPCODE (R81, R82). -/
def encode (i : Instr) : Word := (opcodeOf i).zeroExtend 32

/-- The command the decoder reads from the low `nbits` bits of `w`, none where it refuses the word or
where the row is longer than the one word a command has (R87). -/
def decodeTableWord (nbits w : Nat) : Option Instr :=
  if nbits ≤ 32 then
    match decodeCommand (BitVec.ofNat 32 (w % 2 ^ nbits)) with
    | .ok i => some i
    | .error _ => none
  else none

end Sys2Proof
end

