-- ==== Sys2Proof/Config.lean ====
section
/-! DEFINITION. What an implementation fixes: the constants the spec states, the parameters it leaves
open, and the free values that stand for its unspecified bytes. -/

namespace Sys2Proof.Config

/-- The content of the ID register, "G3D2" in little-endian ASCII (R3, R27). -/
def idWord : Word := 0x32443347#32

/-- The content of the VERSION register: revision 1 of the register interface (R3, R28). -/
def versionWord : Word := 0x00000001#32

/-- The open parameter HEX_CAP (R9) of the core that `State.reset` describes, counted in blocks of
16 bytes above the least capacity: HEX_CAP = 16 * capBlocks + 16, which ranges over exactly the
multiples of 16 from 16 to 16384. No body: nothing is known of it. DESIGN CHOICE, log 4. -/
opaque capBlocks : Fin 1024

/-- The open parameter BASE (R11): the address of the core's window in the host's address space. -/
opaque base : Nat

/-- The three buffer memories (R39 to R41). -/
inductive BufferName where
  | hex
  | bg
  | out
deriving DecidableEq, Repr

/-- The byte that draw number `draw` gives index `i` of a buffer: the arbitrary value of R42, R212 and
R213, "drawn once and stable until written". No body: a claim holds for every choice. Log 5. -/
opaque freeByte (buffer : BufferName) (draw i : Nat) : Byte

end Sys2Proof.Config
end

