-- ==== Sys2Proof/Machine/State.lean ====
section
/-! DEFINITION. The machine's state: the whole tuple of spec/10_state.md R44 as plain data, and beside
it the model's own fields (the reset pin, the host port's last answer, the turns still to come). -/

namespace Sys2Proof.Machine

/-- The hidden state PENDING_OP (R23). -/
inductive PendingOp where
  | none
  | decode
  | blend
deriving DecidableEq, Repr

/-- The bytes of a buffer that have been written since its last draw: (index, byte) pairs in the form
`Memory.wf` of Machine/Ops.lean. -/
abbrev Memory := List Host.Cell

/-- A buffer memory (R39 to R41). An index with no cell holds the byte that draw number `draw` gave it
(R42, R212, R213; log 5). -/
structure Buffer where
  cells : Memory
  draw : Nat
deriving DecidableEq, Repr

/-- The assigned registers of R24. -/
inductive Reg where
  | id
  | version
  | cap
  | ctrl
  | cmd
  | status
  | errPos
  | hexLen
  | bgLen
  | outLen
deriving DecidableEq, Repr

/-- The four host-port transactions (R50); an address is a 16-bit offset from BASE (R51). -/
inductive Txn where
  | rd8 (addr : Half)
  | rd32 (addr : Half)
  | wr8 (addr : Half) (v : Byte)
  | wr32 (addr : Half) (v : Word)
deriving DecidableEq, Repr

/-- What the host port answered to the last transaction (R50, R57). -/
inductive Response where
  /-- No transaction yet. -/
  | none
  /-- The data of an RD8. -/
  | data8 (v : Byte)
  /-- The data of an RD32. -/
  | data32 (v : Word)
  /-- The acknowledgement of a write. -/
  | ack
  /-- The busfault of a read, with the data value it returns (R57: the value 0). -/
  | busfaultRead (data : Word)
  /-- The busfault of a write. -/
  | busfaultWrite
deriving DecidableEq, Repr

/-- One turn of the total order of R66, and the inputs of the platform that fall between turns. -/
inductive Event where
  /-- The host issues a transaction (R50). -/
  | host (t : Txn)
  /-- The engine takes its step if it has one (R165, R166). -/
  | engine
  /-- The platform asserts RST (R210). -/
  | assertReset
  /-- The platform deasserts RST (R214). -/
  | releaseReset
  /-- The core is powered on (R213). -/
  | powerOn
deriving DecidableEq, Repr

/-- One core instance (R44), with the model's own fields after it. -/
structure State where
  /-- CTRL.IE (R30). -/
  ie : Bool
  /-- STATUS.BUSY (R32). -/
  busy : Bool
  /-- STATUS.DONE (R32). -/
  done : Bool
  /-- STATUS.ERR (R32). -/
  err : Bool
  /-- STATUS.ERR_CODE (R32, R180). -/
  errCode : BitVec 4
  /-- ERR_POS.POS (R33). -/
  errPos : Half
  /-- HEX_LEN.LEN (R34). -/
  hexLen : Half
  /-- BG_LEN.LEN (R35). -/
  bgLen : Half
  /-- OUT_LEN.LEN (R36). -/
  outLen : Half
  /-- PENDING_OP (R23). -/
  pendingOp : PendingOp
  /-- HEX_MEM (R39). -/
  hexMem : Buffer
  /-- BG_MEM (R40). -/
  bgMem : Buffer
  /-- OUT_MEM (R41). -/
  outMem : Buffer
  /-- The parameter HEX_CAP (R9): HEX_CAP = 16 * capBlocks + 16. No step changes it. Log 4. -/
  capBlocks : Fin 1024
  /-- The level of the reset input RST, true while asserted (R210, R211). Log 7. -/
  rst : Bool
  /-- The host port's answer to the last transaction (R50, R57). Log 6. -/
  response : Response
  /-- The turns still to come (R66), the next one first. Log 1. -/
  events : List Event
deriving DecidableEq, Repr

/-- The reasons a step can stop the machine: none. Nothing in the spec stops it: a command error is
recorded in STATUS (R193) and a busfault is an answer on the host port (R57, R187). Nobody raises a
`Fault`; safe. Log 8. -/
inductive Fault where
deriving DecidableEq, Repr

/-- The reasons a step can be refused. -/
inductive Refusal where
  /-- The instruction has no meaning in the model. No arm of `exec` answers it; safe. -/
  | notModelled (mnemonic : String)
deriving DecidableEq, Repr

/-- The machine right after reset (R210) following power-on (R213), with RST deasserted (R214), no
transaction answered yet and no turn to come. No byte of a buffer is listed: each holds the free value
of draw 0. -/
def State.reset : State where
  ie := false
  busy := false
  done := false
  err := false
  errCode := 0#4
  errPos := 0#16
  hexLen := 0#16
  bgLen := 0#16
  outLen := 0#16
  pendingOp := .none
  hexMem := ⟨[], 0⟩
  bgMem := ⟨[], 0⟩
  outMem := ⟨[], 0⟩
  capBlocks := Config.capBlocks
  rst := false
  response := .none
  events := []

end Sys2Proof.Machine
end

