-- ==== Sys2Proof/Machine/Flags.lean ====
section
/-! DEFINITION. The status fields as software sees them (spec/10_state.md R32, R43), the error codes
(spec/60_exceptions.md R180) and the interrupt output (R191). -/

namespace Sys2Proof.Machine

/-- The kinds of command error (R180). InvalidInputType is no error of the core (R183). -/
inductive ErrKind where
  | malformedLength
  | invalidDigit
  | capacityExceeded
  | illegalCommand
deriving DecidableEq, Repr

/-- The numbers of R180, as STATUS.ERR_CODE holds them. -/
def errorCode : ErrKind → BitVec 4
  | .malformedLength => 1#4
  | .invalidDigit => 2#4
  | .capacityExceeded => 3#4
  | .illegalCommand => 4#4

/-- The STATUS register as RD32 returns it: bits 31:12 zero, ERR_CODE, bits 7:3 zero, ERR, DONE, BUSY
(R32, R26). -/
def State.statusWord (s : State) : Word :=
  (BitVec.ofBool s.busy).zeroExtend 32 ||| ((BitVec.ofBool s.done).zeroExtend 32 <<< 1) |||
    ((BitVec.ofBool s.err).zeroExtend 32 <<< 2) ||| (s.errCode.zeroExtend 32 <<< 8)

/-- The CTRL register as RD32 returns it: bits 31:1 zero, IE (R30, R26). -/
def State.ctrlWord (s : State) : Word := (BitVec.ofBool s.ie).zeroExtend 32

/-- A 16-bit field in bits 15:0 of a register, bits 31:16 zero (R33 to R36, R26). -/
def halfWord (v : Half) : Word := v.zeroExtend 32

/-- The interrupt output IRQ at every instant (R43, R191). -/
def State.irq (s : State) : Bool := s.ie && (s.done || s.err)

end Sys2Proof.Machine
end

