-- ==== Sys2Proof/Machine/Operands.lean ====
section
/-! DEFINITION. The operand forms of spec/30_encoding.md R85: a character, which the lookup ROM turns into
a nibble (spec/40_hex_decoder.md R100 to R104), and a background byte, split into nibbles
(spec/41_alpha_compositor.md R134); with the byte order of a 32-bit transfer (spec/20_memory.md R54, R55). -/

namespace Sys2Proof.Machine

/-- A valid ROM entry: VALID = 1 above the value (R100). -/
def validEntry (value : Nat) : RomEntry := 0b10000#5 ||| (BitVec.ofNat 4 value).zeroExtend 5

/-- The lookup ROM, indexed by the unsigned byte value (R101). -/
def rom (b : Byte) : RomEntry :=
  let i := b.toNat
  if 0x30 ≤ i ∧ i ≤ 0x39 then validEntry (i - 0x30)
  else if 0x41 ≤ i ∧ i ≤ 0x46 then validEntry (i - 0x41 + 10)
  else if 0x61 ≤ i ∧ i ≤ 0x66 then validEntry (i - 0x61 + 10)
  else 0#5

/-- The per-character lookup, shared by DECODE and BLEND (R102). -/
def lookup (c : Byte) : Option Nibble :=
  if (rom c).getLsbD 4 then some ((rom c).extractLsb' 0 4) else none

/-- Nibble-pair packing: `lo` to slot A, bits 3:0, and `hi` to slot B, bits 7:4 (R104). -/
def pack (lo hi : Nibble) : Byte := lo.zeroExtend 8 ||| (hi.zeroExtend 8 <<< 4)

/-- Slot A of a packed byte, bits 3:0 (R134). -/
def slotA (b : Byte) : Nibble := b.extractLsb' 0 4

/-- Slot B of a packed byte, bits 7:4 (R134). -/
def slotB (b : Byte) : Nibble := b.extractLsb' 4 4

/-- The data of an aligned RD32 from the bytes at addr, addr+1, addr+2, addr+3: little-endian (R54). -/
def joinBytes (b0 b1 b2 b3 : Byte) : Word :=
  b0.zeroExtend 32 ||| (b1.zeroExtend 32 <<< 8) ||| (b2.zeroExtend 32 <<< 16) ||| (b3.zeroExtend 32 <<< 24)

/-- Byte `k` of the data of a WR32, which goes to addr+k (R55). -/
def byteOfWord (v : Word) (k : Nat) : Byte := v.extractLsb' (8 * k) 8

end Sys2Proof.Machine
end

