-- ==== Sys2Proof/Machine/Ops.lean ====
section
/-! DEFINITION. The named operations over the state: the buffer memories, the capacities, the entry into
a command error and the return from it (spec/60_exceptions.md R193, R194), acceptance and completion of a
command (spec/42_command_control.md R162, R166), reset and power-on (spec/70_reset_and_hazards.md R210 to
R213). -/

namespace Sys2Proof.Machine

/-! ### Memory -/

/-- The canonical form: indices strictly rising. An index with no cell reads as no written value, which
no cell equals, so the second half of the form holds of every list (log 5). -/
abbrev Memory.wf (m : Memory) : Prop := m.Pairwise fun x y => x.1 < y.1

/-- The written byte at index `i`, none where nothing has been written since the last draw. -/
def Memory.get? : Memory → Nat → Option Byte
  | [], _ => none
  | (a, v) :: m, i => if i = a then some v else Memory.get? m i

/-- Write `v` at index `i`, keeping the indices rising. -/
def Memory.set : Memory → Nat → Byte → Memory
  | [], i, v => [(i, v)]
  | (a, w) :: m, i, v =>
    if i < a then (i, v) :: (a, w) :: m
    else if i = a then (i, v) :: m
    else (a, w) :: Memory.set m i v

/-- Byte `i` of a buffer: the written byte, or the byte its last draw gave it (R42, R212, R213). -/
def Buffer.read (name : Config.BufferName) (b : Buffer) (i : Nat) : Byte :=
  match Memory.get? b.cells i with
  | some v => v
  | none => Config.freeByte name b.draw i

/-- Write one byte of a buffer. -/
def Buffer.write (b : Buffer) (i : Nat) (v : Byte) : Buffer := { b with cells := Memory.set b.cells i v }

/-- Write `bytes` at indices `i`, `i+1`, ... of a buffer (the loop of R166). -/
def Buffer.writeFrom : Buffer → Nat → List Byte → Buffer
  | b, _, [] => b
  | b, i, v :: vs => Buffer.writeFrom (Buffer.write b i v) (i + 1) vs

/-- Every byte of a buffer becomes unspecified: a new draw, nothing written since (R212, R213). -/
def Buffer.redraw (b : Buffer) : Buffer := ⟨[], b.draw + 1⟩

/-! ### Capacities and buffer bytes -/

/-- HEX_CAP (R9). -/
def State.hexCap (s : State) : Nat := 16 * s.capBlocks.val + 16

/-- BG_CAP = HEX_CAP / 4 (R10). -/
def State.bgCap (s : State) : Nat := s.hexCap / 4

/-- OUT_CAP = HEX_CAP / 2 (R10). -/
def State.outCap (s : State) : Nat := s.hexCap / 2

/-- HEX_MEM[i] (R39). -/
def State.hexByte (s : State) (i : Nat) : Byte := Buffer.read .hex s.hexMem i

/-- BG_MEM[i] (R40). -/
def State.bgByte (s : State) (i : Nat) : Byte := Buffer.read .bg s.bgMem i

/-- OUT_MEM[i] (R41). -/
def State.outByte (s : State) (i : Nat) : Byte := Buffer.read .out s.outMem i

/-- HEX_MEM[0 .. n-1] (R84). -/
def State.hexBytes (s : State) (n : Nat) : List Byte := (List.range n).map s.hexByte

/-- BG_MEM[0 .. n-1] (R84). -/
def State.bgBytes (s : State) (n : Nat) : List Byte := (List.range n).map s.bgByte

/-- OUT_MEM[0 .. n-1] (R221). -/
def State.outBytes (s : State) (n : Nat) : List Byte := (List.range n).map s.outByte

/-- HEX_MEM[i] <- v. -/
def State.setHexByte (i : Nat) (v : Byte) (s : State) : State := { s with hexMem := Buffer.write s.hexMem i v }

/-- BG_MEM[i] <- v. -/
def State.setBgByte (i : Nat) (v : Byte) (s : State) : State := { s with bgMem := Buffer.write s.bgMem i v }

/-! ### Register fields the host writes -/

/-- x[CTRL].IE <- v (R30). -/
def State.setIe (v : Bool) (s : State) : State := { s with ie := v }

/-- x[HEX_LEN].LEN <- v (R34). -/
def State.setHexLen (v : Half) (s : State) : State := { s with hexLen := v }

/-- x[BG_LEN].LEN <- v (R35). -/
def State.setBgLen (v : Half) (s : State) : State := { s with bgLen := v }

/-! ### The model's own fields -/

/-- Record the host port's answer (R50, R57). -/
def State.respond (r : Response) (s : State) : State := { s with response := r }

/-- The turns still to come (R66). -/
def State.withEvents (es : List Event) (s : State) : State := { s with events := es }

/-! ### Command errors: the entry (R193) and the return (R194) -/

/-- Error entry (R193): ERR with its code, DONE clear, the position, and OUT_LEN = 0; nothing else. -/
def State.enterError (kind : ErrKind) (pos : Half) (s : State) : State :=
  { s with done := false, err := true, errCode := errorCode kind, errPos := pos, outLen := 0#16 }

/-- What clears a result or an error: DONE, ERR, ERR_CODE and ERR_POS become 0 (R164, R194). -/
def State.clearResult (s : State) : State :=
  { s with done := false, err := false, errCode := 0#4, errPos := 0#16 }

/-! ### Acceptance and completion -/

/-- Acceptance of DECODE or BLEND (R162). -/
def State.accept (op : PendingOp) (s : State) : State :=
  { s with busy := true, done := false, err := false, errCode := 0#4, errPos := 0#16, outLen := 0#16,
           pendingOp := op }

/-- The outcome of a DECODE or BLEND (R161). -/
inductive CommandOutcome where
  | ok (out : List Byte)
  | err (kind : ErrKind) (pos : Half)
deriving DecidableEq, Repr

/-- The engine returns to idle: BUSY <- 0 and PENDING_OP <- NONE (R166). -/
def State.goIdle (s : State) : State := { s with busy := false, pendingOp := .none }

/-- Success: the output bytes, their number, and DONE (R166, the case ok). -/
def State.postResult (out : List Byte) (s : State) : State :=
  { s with outMem := Buffer.writeFrom s.outMem 0 out, outLen := BitVec.ofNat 16 out.length,
           done := true, err := false, errCode := 0#4, errPos := 0#16 }

/-- The commit of an outcome by the engine's completion step (R166). -/
def State.commit : CommandOutcome → State → State
  | .ok out, s => (s.postResult out).goIdle
  | .err kind pos, s => (s.enterError kind pos).goIdle

/-! ### Reset and power-on -/

/-- The registers at their reset values (R210). The buffers and the parameter keep their values. -/
def State.resetRegisters (s : State) : State :=
  { s with ie := false, busy := false, done := false, err := false, errCode := 0#4, errPos := 0#16,
           hexLen := 0#16, bgLen := 0#16, outLen := 0#16, pendingOp := .none }

/-- RST is asserted (R210); where a command was in progress, every byte of OUT_MEM becomes unspecified
(R212). -/
def State.assertReset (s : State) : State :=
  { s.resetRegisters with rst := true, outMem := if s.busy then Buffer.redraw s.outMem else s.outMem }

/-- RST is deasserted (R214). -/
def State.releaseReset (s : State) : State := { s with rst := false }

/-- Power-on: as a reset, and every byte of the three buffers becomes unspecified (R213). The level of
RST is the platform's and stays (log 7). -/
def State.powerOn (s : State) : State :=
  { s.resetRegisters with
      hexMem := Buffer.redraw s.hexMem, bgMem := Buffer.redraw s.bgMem, outMem := Buffer.redraw s.outMem }

/-! ### Command issue -/

/-- A host write of a command word (R160): a busfault while BUSY = 1 (R216) or while RST is asserted
(R211); otherwise acknowledged, with the effect of the command in the same step. -/
def State.onCommandWrite (effect : State → State) (s : State) : Host.Outcome State Fault Refusal :=
  if s.busy = true ∨ s.rst = true then .next (s.respond .busfaultWrite)
  else .next ((effect s).respond .ack)

/-- An illegal command word (R163): the IllegalCommand error is recorded at once. -/
def execIllegal (s : State) : Host.Outcome State Fault Refusal :=
  s.onCommandWrite (State.enterError .illegalCommand 0#16)

end Sys2Proof.Machine
end

