-- ==== Sys2Proof/Machine/HexDecoder.lean ====
section
/-! DEFINITION. The hex-to-nibble decoder and the DECODE command, spec/40_hex_decoder.md R102 to R106. -/

namespace Sys2Proof.Machine

/-- Look up the characters in ascending order, the first at index `i`: the nibbles, or the index of the
first character that is no hex digit (the loop of R105 and R138). -/
def scanDigits : Nat → List Byte → Except Nat (List Nibble)
  | _, [] => .ok []
  | i, c :: cs =>
    match lookup c with
    | none => .error i
    | some v =>
      match scanDigits (i + 1) cs with
      | .ok vs => .ok (v :: vs)
      | .error j => .error j

/-- One output byte per pair of nibbles, the first nibble low (R105). -/
def packPairs : List Nibble → List Byte
  | v0 :: v1 :: vs => pack v0 v1 :: packPairs vs
  | _ => []

/-- The plain-decode function over a byte sequence (R105). -/
def decodeFn (h : List Byte) : CommandOutcome :=
  if h.length % 2 = 1 then .err .malformedLength 0#16
  else if h.length = 0 then .ok []
  else
    match scanDigits 0 h with
    | .error i => .err .invalidDigit (BitVec.ofNat 16 i)
    | .ok vs => .ok (packPairs vs)

/-- The outcome of DECODE on the core's state: the capacity check first, then R105 on HEX_MEM[0 .. n-1]
(R106). -/
def State.decodeOutcome (s : State) : CommandOutcome :=
  if s.hexLen.toNat > s.hexCap then .err .capacityExceeded 0#16
  else decodeFn (s.hexBytes s.hexLen.toNat)

/-- DECODE (R106): the write of its word is its acceptance (R160, R162); the engine's completion step
(R166, Machine/Engine.lean) commits `State.decodeOutcome`. -/
def execDecode (s : State) : Host.Outcome State Fault Refusal :=
  s.onCommandWrite (State.accept .decode)

end Sys2Proof.Machine
end

