-- ==== Sys2Proof/Machine/AlphaBlender.lean ====
section
/-! DEFINITION. The blend lanes, the dual-stream coordinator and the BLEND command,
spec/41_alpha_compositor.md R130 to R140. -/

namespace Sys2Proof.Machine

/-- The exact sum of a lane before the shift, a natural number of 0 to 225 (R130, R131). -/
def laneSum (old c a : Nibble) : Nat := old.toNat * (15 - a.toNat) + c.toNat * a.toNat

/-- The blend lane (R130): the shift divides by 16, not by 15. -/
def blendLane (old c a : Nibble) : Nibble := BitVec.ofNat 4 ((laneSum old c a >>> 4) &&& 0xF)

/-- The two lanes of one group, on the background byte (R134, R136). -/
def blendNibbles (ca caa cb cba : Nibble) (bg : Byte) : Byte :=
  pack (blendLane (slotA bg) ca caa) (blendLane (slotB bg) cb cba)

/-- The coordinator: four foreground nibbles and one background byte for each output byte, in order
(R135, R137). -/
def blendGroups : List Nibble → List Byte → List Byte
  | a :: aa :: b :: ba :: vs, bg :: bgs => blendNibbles a aa b ba bg :: blendGroups vs bgs
  | _, _ => []

/-- The blended-decode function of a foreground and a background sequence (R138). -/
def blendFn (fg bgs : List Byte) : CommandOutcome :=
  if fg.length % 2 = 1 then .err .malformedLength 0#16
  else if fg.length % 4 ≠ 0 then .err .malformedLength 0#16
  else if bgs.length * 4 ≠ fg.length then .err .malformedLength 0#16
  else if fg.length = 0 then .ok []
  else
    match scanDigits 0 fg with
    | .error i => .err .invalidDigit (BitVec.ofNat 16 i)
    | .ok vs => .ok (blendGroups vs bgs)

/-- The outcome of BLEND on the core's state: the capacity check first, then R138 on HEX_MEM[0 .. m-1]
and BG_MEM[0 .. L-1] (R140). -/
def State.blendOutcome (s : State) : CommandOutcome :=
  if s.hexLen.toNat > s.hexCap ∨ s.bgLen.toNat > s.bgCap then .err .capacityExceeded 0#16
  else blendFn (s.hexBytes s.hexLen.toNat) (s.bgBytes s.bgLen.toNat)

/-- BLEND (R140): the write of its word is its acceptance (R160, R162); the engine's completion step
(R166, Machine/Engine.lean) commits `State.blendOutcome`. -/
def execBlend (s : State) : Host.Outcome State Fault Refusal :=
  s.onCommandWrite (State.accept .blend)

end Sys2Proof.Machine
end

