-- ==== Sys2Proof/Machine/Control.lean ====
section
/-! DEFINITION. The ACK command, spec/42_command_control.md R164. -/

namespace Sys2Proof.Machine

/-- ACK (R164): clear DONE, ERR, ERR_CODE and ERR_POS; OUT_LEN and OUT_MEM stay. -/
def execAck (s : State) : Host.Outcome State Fault Refusal :=
  s.onCommandWrite State.clearResult

end Sys2Proof.Machine
end

