-- ==== Sys2Proof/Machine/Engine.lean ====
section
/-! DEFINITION. The engine's one step, spec/42_command_control.md R165, R166. -/

namespace Sys2Proof.Machine

/-- The outcome of the pending command, none where no command is pending (R166). -/
def State.pendingOutcome (s : State) : Option CommandOutcome :=
  match s.pendingOp with
  | .none => none
  | .decode => some s.decodeOutcome
  | .blend => some s.blendOutcome

/-- The engine's turn: its completion step where it has one (R165, R166), nothing otherwise. While RST
is asserted it has no step (R211). -/
def State.engineTurn (s : State) : State :=
  if s.rst then s
  else
    match s.pendingOutcome with
    | none => s
    | some r => s.commit r

end Sys2Proof.Machine
end

