-- ==== Sys2Proof/Machine/HostPort.lean ====
section
/-! DEFINITION. The host port: the address map, the register block, the windows, and the four transactions
but for the issue of a command (spec/10_state.md R24 to R36, spec/20_memory.md R50 to R63,
spec/70_reset_and_hazards.md R211, R216). -/

namespace Sys2Proof.Machine

/-- The offset of each register (R24). -/
def regOffset : Reg → Half
  | .id => 0x000#16
  | .version => 0x004#16
  | .cap => 0x008#16
  | .ctrl => 0x00C#16
  | .cmd => 0x010#16
  | .status => 0x014#16
  | .errPos => 0x018#16
  | .hexLen => 0x01C#16
  | .bgLen => 0x020#16
  | .outLen => 0x024#16

/-- The register that starts at an offset of the register block, none where the offset is unassigned (R24). -/
def regAt (offset : Nat) : Option Reg :=
  match offset with
  | 0x000 => some .id
  | 0x004 => some .version
  | 0x008 => some .cap
  | 0x00C => some .ctrl
  | 0x010 => some .cmd
  | 0x014 => some .status
  | 0x018 => some .errPos
  | 0x01C => some .hexLen
  | 0x020 => some .bgLen
  | 0x024 => some .outLen
  | _ => none

/-- What lies at an offset (R62). An offset of a window at or beyond its buffer's capacity is unassigned
(R59 to R61). -/
inductive Location where
  | register (r : Reg)
  | romEntry (b : Byte)
  | hexByte (i : Nat)
  | bgByte (i : Nat)
  | outByte (i : Nat)
  | unassigned
deriving DecidableEq, Repr

/-- The complete address map (R62). -/
def State.locate (s : State) (addr : Half) : Location :=
  let o := addr.toNat
  if o < 0x0100 then
    match regAt o with
    | some r => .register r
    | none => .unassigned
  else if o < 0x0200 then .romEntry (BitVec.ofNat 8 (o - 0x0100))
  else if 0x4000 ≤ o ∧ o < 0x8000 then
    if o - 0x4000 < s.hexCap then .hexByte (o - 0x4000) else .unassigned
  else if 0x8000 ≤ o ∧ o < 0x9000 then
    if o - 0x8000 < s.bgCap then .bgByte (o - 0x8000) else .unassigned
  else if 0xC000 ≤ o ∧ o < 0xE000 then
    if o - 0xC000 < s.outCap then .outByte (o - 0xC000) else .unassigned
  else .unassigned

/-- The value an RD32 of a register returns, none for the write-only CMD (R25 to R36). -/
def State.readRegister (s : State) : Reg → Option Word
  | .id => some Config.idWord
  | .version => some Config.versionWord
  | .cap => some (BitVec.ofNat 32 s.hexCap)
  | .ctrl => some s.ctrlWord
  | .cmd => none
  | .status => some s.statusWord
  | .errPos => some (halfWord s.errPos)
  | .hexLen => some (halfWord s.hexLen)
  | .bgLen => some (halfWord s.bgLen)
  | .outLen => some (halfWord s.outLen)

/-- A WR32 of a register that stores its data, none for a busfault: a read-only register (R25), or a
length register while BUSY = 1 (R216). CMD stores nothing; its writes are commands (R31, Machine/Agents.lean). -/
def State.writeRegister (s : State) (v : Word) : Reg → Option State
  | .id => none
  | .version => none
  | .cap => none
  | .ctrl => some (s.setIe (v.getLsbD 0))
  | .cmd => none
  | .status => none
  | .errPos => none
  | .hexLen => if s.busy then none else some (s.setHexLen (v.extractLsb' 0 16))
  | .bgLen => if s.busy then none else some (s.setBgLen (v.extractLsb' 0 16))
  | .outLen => none

/-- The byte at an offset of a window, none for a busfault (R52, R58 to R61); OUT_MEM cannot be read
while BUSY = 1 (R216). -/
def State.byteAt (s : State) (addr : Half) : Option Byte :=
  match s.locate addr with
  | .register _ => none
  | .romEntry b => some ((rom b).zeroExtend 8)
  | .hexByte i => some (s.hexByte i)
  | .bgByte i => some (s.bgByte i)
  | .outByte i => if s.busy then none else some (s.outByte i)
  | .unassigned => none

/-- A byte stored in a window, none for a busfault (R52, R58 to R61, R216). -/
def State.storeByte (s : State) (addr : Half) (v : Byte) : Option State :=
  match s.locate addr with
  | .register _ => none
  | .romEntry _ => none
  | .hexByte i => if s.busy then none else some (s.setHexByte i v)
  | .bgByte i => if s.busy then none else some (s.setBgByte i v)
  | .outByte _ => none
  | .unassigned => none

/-- The four bytes of an aligned 32-bit read in a window, little-endian (R54). -/
def State.wordAt (s : State) (addr : Half) : Option Word := do
  let b0 ← s.byteAt addr
  let b1 ← s.byteAt (addr + 1)
  let b2 ← s.byteAt (addr + 2)
  let b3 ← s.byteAt (addr + 3)
  pure (joinBytes b0 b1 b2 b3)

/-- The four bytes of an aligned 32-bit write in a window, little-endian (R55). -/
def State.storeWord (s : State) (addr : Half) (v : Word) : Option State := do
  let s ← s.storeByte addr (byteOfWord v 0)
  let s ← s.storeByte (addr + 1) (byteOfWord v 1)
  let s ← s.storeByte (addr + 2) (byteOfWord v 2)
  s.storeByte (addr + 3) (byteOfWord v 3)

/-- RD8 (R50, R52): its data, none for a busfault. -/
def State.read8 (s : State) (addr : Half) : Option Byte :=
  if s.rst then none else s.byteAt addr

/-- RD32 (R50, R53, R54): its data, none for a busfault. -/
def State.read32 (s : State) (addr : Half) : Option Word :=
  if s.rst = true ∨ addr.toNat % 4 ≠ 0 then none
  else
    match s.locate addr with
    | .register r => s.readRegister r
    | _ => s.wordAt addr

/-- WR8 (R50, R52): the state with the byte stored, none for a busfault. -/
def State.write8 (s : State) (addr : Half) (v : Byte) : Option State :=
  if s.rst then none else s.storeByte addr v

/-- WR32 but for the issue of a command (R50, R53, R55): the state with the data stored, none for a
busfault. -/
def State.write32 (s : State) (addr : Half) (v : Word) : Option State :=
  if s.rst = true ∨ addr.toNat % 4 ≠ 0 then none
  else
    match s.locate addr with
    | .register r => s.writeRegister v r
    | _ => s.storeWord addr v

/-- The answer to an RD8: its data, or a busfault with data 0; nothing else changes (R57, R63). -/
def State.answerRead8 (s : State) : Option Byte → State
  | some v => s.respond (.data8 v)
  | none => s.respond (.busfaultRead 0#32)

/-- The answer to an RD32: its data, or a busfault with data 0; nothing else changes (R57, R63). -/
def State.answerRead32 (s : State) : Option Word → State
  | some v => s.respond (.data32 v)
  | none => s.respond (.busfaultRead 0#32)

/-- The answer to a write: the acknowledgement and the new state, or a busfault and the old one (R57). -/
def State.answerWrite (s : State) : Option State → State
  | some t => t.respond .ack
  | none => s.respond .busfaultWrite

/-- The offset that an address of the host's address space stands for, none outside the core's 64 KiB
window at BASE (R11, R51, R62). -/
def offsetOfAddress (addr : Nat) : Option Half :=
  if Config.base ≤ addr ∧ addr < Config.base + 0x10000 then some (BitVec.ofNat 16 (addr - Config.base))
  else none

end Sys2Proof.Machine
end

