-- ==== Sys2Proof/Machine/Agents.lean ====
section
/-! DEFINITION. The agents' turns: a host transaction with the issue of commands
(spec/42_command_control.md R160), the engine's turn, and the platform's reset and power-on; then the
machine's one step, which takes the next turn (spec/20_memory.md R66). -/

namespace Sys2Proof.Machine

/-- The issue of a command word (R160): what the decoder reads from it runs, any other word is recorded
as illegal. -/
def issue (w : Word) (s : State) : Host.Outcome State Fault Refusal :=
  match decodeCommand w with
  | .ok i => exec i s
  | .error _ => execIllegal s

/-- One host-port transaction (R50). -/
def transact (t : Txn) (s : State) : Host.Outcome State Fault Refusal :=
  match t with
  | .rd8 addr => .next (s.answerRead8 (s.read8 addr))
  | .rd32 addr => .next (s.answerRead32 (s.read32 addr))
  | .wr8 addr v => .next (s.answerWrite (s.write8 addr v))
  | .wr32 addr v =>
    if addr = regOffset .cmd then issue v s
    else .next (s.answerWrite (s.write32 addr v))

/-- One turn of the total order (R66), or an input of the platform (R210, R213, R214). -/
def deliver (e : Event) (s : State) : Host.Outcome State Fault Refusal :=
  match e with
  | .host t => transact t s
  | .engine => .next s.engineTurn
  | .assertReset => .next s.assertReset
  | .releaseReset => .next s.releaseReset
  | .powerOn => .next s.powerOn

/-- The machine's step: the next turn of the list; where the list is empty the engine takes its step if
it has one, so that no command stays pending for ever (R165, log 2). -/
def advance (s : State) : Host.Outcome State Fault Refusal :=
  match s.events with
  | [] => .next s.engineTurn
  | e :: es => deliver e (s.withEvents es)

end Sys2Proof.Machine
end

