-- ==== Sys2Proof/Machine/Step.lean ====
section
/-! DEFINITION. The machine's one step, and where the next instruction is placed. -/

namespace Sys2Proof.Machine

/-- One step: one turn of the total order of spec/20_memory.md R66 (Machine/Agents.lean). -/
def step (s : State) : Host.Outcome State Fault Refusal := advance s

/-- The state whose very next turn is the host's `WR32 CMD, w`, which is where a command comes from
(R21, R160). The core fetches nothing (R70), so nothing else is needed. Log 3. -/
def State.withFetchWord (s : State) (nbits w : Nat) : State :=
  s.withEvents (.host (.wr32 (regOffset .cmd) (BitVec.ofNat 32 (w % 2 ^ nbits))) :: s.events)

end Sys2Proof.Machine
end

