-- ==== Sys2Proof/Machine/HostProgram.lean ====
section
/-! DEFINITION. The host's program notation: the symbolic offsets and the pseudo-instructions of
spec/30_encoding.md R88, R89, as lists of turns. WAIT's branch is the host's own control flow and is no
part of the core (R89): one read of STATUS is what it sends. -/

namespace Sys2Proof.Machine

/-- `ROM+b` (R88). -/
def romOffset (b : Nat) : Half := 0x0100#16 + BitVec.ofNat 16 b

/-- `HEX+i` (R88). -/
def hexOffset (i : Nat) : Half := 0x4000#16 + BitVec.ofNat 16 i

/-- `BG+i` (R88). -/
def bgOffset (i : Nat) : Half := 0x8000#16 + BitVec.ofNat 16 i

/-- `OUT+i` (R88). -/
def outOffset (i : Nat) : Half := 0xC000#16 + BitVec.ofNat 16 i

/-- `RD32 NAME` (R88). -/
def readReg (r : Reg) : Event := .host (.rd32 (regOffset r))

/-- `WR32 NAME, v` (R88). -/
def writeReg (r : Reg) (v : Word) : Event := .host (.wr32 (regOffset r) v)

/-- The pseudo-instructions ACK, DECODE and BLEND (R89). -/
def issueOf (i : Instr) : Event := writeReg .cmd (encode i)

/-- One round of WAIT (R89). -/
def waitRound : Event := readReg .status

/-- `WR8 HEX+i, c` for the characters in turn, from index `i` (R89). -/
def hexWrites : Nat → List Byte → List Event
  | _, [] => []
  | i, c :: cs => .host (.wr8 (hexOffset i) c) :: hexWrites (i + 1) cs

/-- `WR8 BG+i, b` for the bytes in turn, from index `i` (R89). -/
def bgWrites : Nat → List Byte → List Event
  | _, [] => []
  | i, b :: bs => .host (.wr8 (bgOffset i) b) :: bgWrites (i + 1) bs

/-- `WR32 HEX+4j, w_j` for each group of four characters, from index `i` (R89, the word form). -/
def hexWordWrites : Nat → List Byte → List Event
  | i, c0 :: c1 :: c2 :: c3 :: cs => .host (.wr32 (hexOffset i) (joinBytes c0 c1 c2 c3)) :: hexWordWrites (i + 4) cs
  | _, _ => []

/-- LOADHEX, byte form (R89). -/
def loadHex (cs : List Byte) : List Event := hexWrites 0 cs ++ [writeReg .hexLen (BitVec.ofNat 32 cs.length)]

/-- LOADHEX, word form, for a number of characters that is a multiple of 4 (R89). -/
def loadHexWords (cs : List Byte) : List Event :=
  hexWordWrites 0 cs ++ [writeReg .hexLen (BitVec.ofNat 32 cs.length)]

/-- LOADBG (R89). -/
def loadBg (bs : List Byte) : List Event := bgWrites 0 bs ++ [writeReg .bgLen (BitVec.ofNat 32 bs.length)]

end Sys2Proof.Machine
end

