-- ==== Sys2Proof/Safety.lean ====
section
/-! DEFINITION. What counts as a good state and a good run, in the terms the claims use: the invariants
the spec states of STATUS, PENDING_OP and the buffers, and the spec's own list of busfaults. -/

namespace Sys2Proof.Machine

/-- "At most one of BUSY, DONE and ERR is 1" (R32). -/
abbrev State.AtMostOneStatus (s : State) : Prop :=
  ¬(s.busy = true ∧ s.done = true) ∧ ¬(s.busy = true ∧ s.err = true) ∧ ¬(s.done = true ∧ s.err = true)

/-- "ERR_CODE != 0 if and only if ERR = 1" (R32), and codes 5 to 15 are never produced (R180). -/
abbrev State.ErrorCodeLegal (s : State) : Prop :=
  (s.errCode ≠ 0#4 ↔ s.err = true) ∧ s.errCode.toNat ≤ 4

/-- "PENDING_OP != NONE if and only if BUSY = 1" (R23). -/
abbrev State.PendingWhileBusy (s : State) : Prop := s.pendingOp ≠ .none ↔ s.busy = true

/-- POS is 0 for every outcome but InvalidDigit, and then an index of HEX_MEM (R33). -/
abbrev State.PositionLegal (s : State) : Prop :=
  (s.errCode ≠ errorCode .invalidDigit → s.errPos = 0#16) ∧ s.errPos.toNat < s.hexCap

/-- OUT_LEN is 0 during BUSY and after an error, and never exceeds OUT_CAP (R36). -/
abbrev State.OutputLengthLegal (s : State) : Prop :=
  (s.busy = true ∨ s.err = true → s.outLen = 0#16) ∧ s.outLen.toNat ≤ s.outCap

/-- While RST is asserted every register holds its reset value (R210, R211). -/
abbrev State.QuietInReset (s : State) : Prop :=
  s.rst = true → s = { s.resetRegisters with rst := true }

/-- A buffer holds bytes at indices below its capacity only, in canonical form (R39 to R41). -/
abbrev Buffer.Within (b : Buffer) (cap : Nat) : Prop := Memory.wf b.cells ∧ ∀ c ∈ b.cells, c.1 < cap

/-- The three buffers, each within its capacity (R39 to R41). -/
abbrev State.BuffersLegal (s : State) : Prop :=
  s.hexMem.Within s.hexCap ∧ s.bgMem.Within s.bgCap ∧ s.outMem.Within s.outCap

/-- The invariant of the machine. -/
structure State.Inv (s : State) : Prop where
  atMostOne : s.AtMostOneStatus
  errorCode : s.ErrorCodeLegal
  pending : s.PendingWhileBusy
  position : s.PositionLegal
  outputLength : s.OutputLengthLegal
  quiet : s.QuietInReset
  buffers : s.BuffersLegal

/-! ### The address map and the busfaults as the spec's tables list them (R57, R62) -/

/-- The offsets that start an assigned register, with the name of the register (R24). -/
def registerTable : List (Nat × Reg) :=
  [(0x000, .id), (0x004, .version), (0x008, .cap), (0x00C, .ctrl), (0x010, .cmd), (0x014, .status),
   (0x018, .errPos), (0x01C, .hexLen), (0x020, .bgLen), (0x024, .outLen)]

/-- The registers a host write reaches (access codes RW and WO, R24, R25). -/
def writableRegisters : List Reg := [.ctrl, .cmd, .hexLen, .bgLen]

/-- An offset in the register block 0x000 to 0x0FF (R24, R52). -/
abbrev InRegisterBlock (o : Nat) : Prop := o ≤ 0x00FF

/-- An offset in the ROM window (R58). -/
abbrev InRomWindow (o : Nat) : Prop := 0x0100 ≤ o ∧ o ≤ 0x01FF

/-- An offset in the HEX_MEM window (R59). -/
abbrev InHexWindow (o : Nat) : Prop := 0x4000 ≤ o ∧ o ≤ 0x7FFF

/-- An offset in the BG_MEM window (R60). -/
abbrev InBgWindow (o : Nat) : Prop := 0x8000 ≤ o ∧ o ≤ 0x8FFF

/-- An offset in the OUT_MEM window (R61). -/
abbrev InOutWindow (o : Nat) : Prop := 0xC000 ≤ o ∧ o ≤ 0xDFFF

/-- The offset a transaction is made at. -/
def Txn.offset : Txn → Nat
  | .rd8 a => a.toNat
  | .rd32 a => a.toNat
  | .wr8 a _ => a.toNat
  | .wr32 a _ => a.toNat

/-- RD32 and WR32. -/
def Txn.isWide : Txn → Bool
  | .rd8 _ => false
  | .rd32 _ => true
  | .wr8 _ _ => false
  | .wr32 _ _ => true

/-- WR8 and WR32. -/
def Txn.isWrite : Txn → Bool
  | .rd8 _ => false
  | .rd32 _ => false
  | .wr8 _ _ => true
  | .wr32 _ _ => true

/-- The offset is the start of the register `r` (R24). -/
abbrev Txn.AtRegister (t : Txn) (r : Reg) : Prop := (t.offset, r) ∈ registerTable

/-- R57 case 1: the offset is unassigned: in the register block but the start of no register (R24), or in
one of the gaps of R62. -/
abbrev Txn.Unassigned (t : Txn) : Prop :=
  (InRegisterBlock t.offset ∧ t.offset ∉ registerTable.map Prod.fst) ∨
  (0x0200 ≤ t.offset ∧ t.offset ≤ 0x3FFF) ∨ (0x9000 ≤ t.offset ∧ t.offset ≤ 0xBFFF) ∨ 0xE000 ≤ t.offset

/-- R57 case 2: a 32-bit transaction is misaligned (R53). -/
abbrev Txn.Misaligned (t : Txn) : Prop := t.isWide = true ∧ t.offset % 4 ≠ 0

/-- R57 case 3: an 8-bit transaction in the register block (R52). -/
abbrev Txn.NarrowOnRegister (t : Txn) : Prop := t.isWide = false ∧ InRegisterBlock t.offset

/-- R57 case 4: a write to an RO register, or a read of the WO register CMD (R25). -/
abbrev Txn.WrongDirection (t : Txn) : Prop :=
  (t.isWrite = true ∧ ∃ r : Reg, t.AtRegister r ∧ r ∉ writableRegisters) ∨
  (t.isWrite = false ∧ t.AtRegister .cmd)

/-- R57 case 5: a window offset at or beyond the buffer's capacity (R59 to R61). -/
abbrev Txn.BeyondCapacity (t : Txn) (s : State) : Prop :=
  (InHexWindow t.offset ∧ s.hexCap ≤ t.offset - 0x4000) ∨
  (InBgWindow t.offset ∧ s.bgCap ≤ t.offset - 0x8000) ∨
  (InOutWindow t.offset ∧ s.outCap ≤ t.offset - 0xC000)

/-- R57 case 6: a write to the ROM window or the OUT_MEM window (R58, R61). -/
abbrev Txn.WriteToReadOnlyWindow (t : Txn) : Prop :=
  t.isWrite = true ∧ (InRomWindow t.offset ∨ InOutWindow t.offset)

/-- What R216 forbids while BUSY = 1: a write of CMD, HEX_LEN or BG_LEN, a write in the HEX_MEM or BG_MEM
window, a read in the OUT_MEM window. -/
abbrev Txn.ForbiddenWhileBusy (t : Txn) : Prop :=
  (t.isWrite = true ∧ (t.AtRegister .cmd ∨ t.AtRegister .hexLen ∨ t.AtRegister .bgLen)) ∨
  (t.isWrite = true ∧ (InHexWindow t.offset ∨ InBgWindow t.offset)) ∨
  (t.isWrite = false ∧ InOutWindow t.offset)

/-- The transactions the spec answers with a busfault: the seven cases of R57, and every one while RST is
asserted (R211). -/
abbrev Txn.Busfaults (t : Txn) (s : State) : Prop :=
  s.rst = true ∨ t.Unassigned ∨ t.Misaligned ∨ t.NarrowOnRegister ∨ t.WrongDirection ∨
  t.BeyondCapacity s ∨ t.WriteToReadOnlyWindow ∨ (s.busy = true ∧ t.ForbiddenWhileBusy)

/-- The answer of a busfault: a read returns the data value 0 with it (R57). -/
def Txn.busfault (t : Txn) : Response := if t.isWrite then .busfaultWrite else .busfaultRead 0#32

/-- The answer is a busfault. -/
def Response.isBusfault : Response → Bool
  | .none => false
  | .data8 _ => false
  | .data32 _ => false
  | .ack => false
  | .busfaultRead _ => true
  | .busfaultWrite => true

/-- The bits of a register that are fields, not reserved (R26 to R36). -/
def fieldMask : Reg → Word
  | .id => 0xFFFFFFFF#32
  | .version => 0xFFFFFFFF#32
  | .cap => 0xFFFFFFFF#32
  | .ctrl => 0x00000001#32
  | .cmd => 0xFFFFFFFF#32
  | .status => 0x00000F07#32
  | .errPos => 0x0000FFFF#32
  | .hexLen => 0x0000FFFF#32
  | .bgLen => 0x0000FFFF#32
  | .outLen => 0x0000FFFF#32

/-! ### The ends of a command -/

/-- What a DECODE or BLEND that was issued in `s` leaves when it ends in the error `code` at `pos` (R106,
R140, R193): the three things of R193 and idleness. The port's answer is still the acknowledgement of the
command's word: the model's choice (log 6). -/
def State.endedInError (s : State) (code : BitVec 4) (pos : Half) : State :=
  { s with busy := false, done := false, err := true, errCode := code, errPos := pos, outLen := 0#16,
           pendingOp := .none, response := .ack }

/-- What a DECODE or BLEND that was issued in `s` leaves when it succeeds with `len` output bytes in the
output buffer `out` (R106, R140). The port's answer is as in `State.endedInError` (log 6). -/
def State.endedWell (s : State) (out : Buffer) (len : Nat) : State :=
  { s with busy := false, done := true, err := false, errCode := 0#4, errPos := 0#16,
           outLen := BitVec.ofNat 16 len, pendingOp := .none, outMem := out, response := .ack }

/-- The port takes commands: BUSY = 0 and RST not asserted (R160, R211). -/
abbrev State.TakesCommands (s : State) : Prop := s.busy = false ∧ s.rst = false

/-! ### Runs -/

/-- A turn of the host or the engine, no input of the platform. -/
def Event.isAgentTurn : Event → Bool
  | .host _ => true
  | .engine => true
  | .assertReset => false
  | .releaseReset => false
  | .powerOn => false

/-- A transaction of the host. -/
def Event.isHostTurn : Event → Bool
  | .host _ => true
  | .engine => false
  | .assertReset => false
  | .releaseReset => false
  | .powerOn => false

/-- The command a turn writes to CMD, if the word is legal (R83). -/
def Event.command : Event → Option Instr
  | .host (.wr32 a w) => if a = regOffset .cmd then decodeTableWord 32 w.toNat else none
  | .host (.rd8 _) => none
  | .host (.rd32 _) => none
  | .host (.wr8 _ _) => none
  | .engine => none
  | .assertReset => none
  | .releaseReset => none
  | .powerOn => none

/-- The turn resets the core: RST asserted, or power-on (R210, R213). -/
def Event.resets : Event → Bool
  | .host _ => false
  | .engine => false
  | .assertReset => true
  | .releaseReset => false
  | .powerOn => true

/-- The turn writes in the window that a predicate on offsets describes. -/
def Event.writesIn (window : Nat → Prop) : Event → Prop
  | .host t => t.isWrite = true ∧ window t.offset
  | .engine => False
  | .assertReset => False
  | .releaseReset => False
  | .powerOn => False

/-- The turn is a WR32 of the register `r`. -/
def Event.writesRegister (r : Reg) : Event → Bool
  | .host (.wr32 a _) => a = regOffset r
  | .host (.rd8 _) => false
  | .host (.rd32 _) => false
  | .host (.wr8 _ _) => false
  | .engine => false
  | .assertReset => false
  | .releaseReset => false
  | .powerOn => false

/-- The turn a step takes: the next one of the list, the engine's where the list is empty (R66, log 2). -/
def State.turn (s : State) : Event :=
  match s.events with
  | [] => .engine
  | e :: _ => e

end Sys2Proof.Machine
end

