-- ==== Sys2Proof/Certificates/Slice0/Obligations.lean ====
section
/-! DEFINITION. The statements for the provers. Each docstring names the rule of spec/ it formalises. -/

open Sys2Proof Sys2Proof.Machine

/-! ### Encoding (30_encoding.md) -/

/-- Decode and encode agree both ways: every command decodes from its word, and a word that decodes to a
command is that command's word, so no bit of the word is dropped. -/
def Obligations.DecodeEncodeAgree : Prop :=
  (∀ i : Instr, decodeCommand (encode i) = .ok i) ∧
  ∀ (w : Word) (i : Instr), decodeCommand w = .ok i → w = encode i

/-- R83: the decode of a command word is the total function that matches the full word. -/
def Obligations.CommandWordDecodeIsTotal : Prop :=
  ∀ w : Word,
    (w = 0x00000000#32 → decodeCommand w = .ok .ack) ∧
    (w = 0x00000001#32 → decodeCommand w = .ok .decode) ∧
    (w = 0x00000002#32 → decodeCommand w = .ok .blend) ∧
    (w ≠ 0x00000000#32 → w ≠ 0x00000001#32 → w ≠ 0x00000002#32 → ∃ e, decodeCommand w = .error e)

/-- R86: the illegal words are those with a reserved OPCODE or a nonzero MBZ field, which is every word but
three; writing one is acknowledged, no busfault, and records IllegalCommand (code 4). -/
def Obligations.IllegalWordsAreRecordedNotFaulted : Prop :=
  ∀ w : Word,
    ((∃ e, decodeCommand w = .error e) ↔ (3 ≤ (w.extractLsb' 0 8).toNat ∨ w.extractLsb' 8 24 ≠ 0#24)) ∧
    ((∃ e, decodeCommand w = .error e) ↔ (w ≠ 0#32 ∧ w ≠ 1#32 ∧ w ≠ 2#32)) ∧
    ∀ s : State, s.TakesCommands → (∃ e, decodeCommand w = .error e) →
      ∃ t, deliver (.host (.wr32 0x010#16 w)) s = .next t ∧ t.response = .ack ∧ t.err = true ∧ t.errCode = 4#4

/-- R82: the words of the opcode table decode to their commands, and two neighbours of DECODE and BLEND
(95_test_vectors.md 2.5) to none. -/
def Obligations.OpcodeTableWordsDecode : Prop :=
  decodeTableWord 32 0x00000000 = some .ack ∧ decodeTableWord 32 0x00000001 = some .decode ∧
  decodeTableWord 32 0x00000002 = some .blend ∧ decodeTableWord 32 0x00000101 = none ∧
  decodeTableWord 32 0x80000002 = none

/-! ### The lookup ROM and plain decoding (40_hex_decoder.md) -/

/-- R100, R101: the 256 entries of the ROM, in full; an invalid entry has VALUE 0; 22 entries are valid. -/
def Obligations.RomHoldsTheTable : Prop :=
  (List.range 256).map (fun i => (rom (BitVec.ofNat 8 i)).toNat) =
      List.replicate 48 0x00 ++ [0x10, 0x11, 0x12, 0x13, 0x14, 0x15, 0x16, 0x17, 0x18, 0x19] ++
      List.replicate 7 0x00 ++ [0x1A, 0x1B, 0x1C, 0x1D, 0x1E, 0x1F] ++
      List.replicate 26 0x00 ++ [0x1A, 0x1B, 0x1C, 0x1D, 0x1E, 0x1F] ++ List.replicate 153 0x00 ∧
  (∀ b : Byte, (rom b).getLsbD 4 = false → (rom b).extractLsb' 0 4 = 0#4) ∧
  ((List.range 256).filter fun i => (rom (BitVec.ofNat 8 i)).getLsbD 4).length = 22

/-- R102: `lookup` reads the ROM; a byte with bit 7 set is never a hex digit. -/
def Obligations.LookupReadsTheRom : Prop :=
  ∀ c : Byte,
    ((rom c).getLsbD 4 = true → lookup c = some ((rom c).extractLsb' 0 4)) ∧
    ((rom c).getLsbD 4 = false → lookup c = none) ∧
    (c.getLsbD 7 = true → lookup c = none)

/-- R104: packing puts `lo` in slot A and `hi` in slot B, and the two do not interact. -/
def Obligations.PackKeepsTheNibblesApart : Prop :=
  ∀ lo hi : Nibble,
    pack lo hi = (lo.zeroExtend 8 ||| (hi.zeroExtend 8 <<< 4)) ∧
    slotA (pack lo hi) = lo ∧ slotB (pack lo hi) = hi

/-- R105: the plain-decode function, for every byte sequence. -/
def Obligations.DecodeFnFollowsTheRule : Prop :=
  ∀ h : List Byte,
    (h.length % 2 = 1 → decodeFn h = .err .malformedLength 0#16) ∧
    (h.length = 0 → decodeFn h = .ok []) ∧
    (h.length % 2 = 0 → ∀ (i : Nat) (c : Byte), h[i]? = some c → lookup c = none →
      (∀ j < i, ∀ d, h[j]? = some d → lookup d ≠ none) →
      decodeFn h = .err .invalidDigit (BitVec.ofNat 16 i)) ∧
    (h.length % 2 = 0 → (∀ c ∈ h, lookup c ≠ none) →
      ∃ out, decodeFn h = .ok out ∧ out.length = h.length / 2 ∧
        ∀ (k : Nat) (c0 c1 : Byte) (v0 v1 : Nibble), h[2 * k]? = some c0 → h[2 * k + 1]? = some c1 →
          lookup c0 = some v0 → lookup c1 = some v1 → out[k]? = some (pack v0 v1))

/-- R108: the first character of a pair is the low nibble. -/
def Obligations.FirstCharacterIsTheLowNibble : Prop :=
  ∀ (c0 c1 : Byte) (v0 v1 : Nibble), lookup c0 = some v0 → lookup c1 = some v1 →
    decodeFn [c0, c1] = .ok [v0.zeroExtend 8 ||| (v1.zeroExtend 8 <<< 4)]

/-- R109: encoding bytes in the nibble-swapped hex form, with any characters that stand for the nibbles, and
decoding gives the bytes back. -/
def Obligations.HexRoundTrip : Prop :=
  ∀ hexchar : Nibble → Byte, (∀ v, lookup (hexchar v) = some v) →
    (∀ b : Byte, decodeFn [hexchar (b.extractLsb' 0 4), hexchar (b.extractLsb' 4 4)] = .ok [b]) ∧
    ∀ s : List Byte,
      decodeFn (s.flatMap fun b => [hexchar (b.extractLsb' 0 4), hexchar (b.extractLsb' 4 4)]) = .ok s

/-! ### The blender (41_alpha_compositor.md) -/

/-- R130, R131, R132: the lane's formula, with the shift by 4 as a division by 16 and the mask as a remainder;
the bounds of its arithmetic; the mask changes nothing and the nibble 15 is never an output. -/
def Obligations.BlendLaneIsExact : Prop :=
  ∀ old c a : Nibble,
    laneSum old c a = old.toNat * (15 - a.toNat) + c.toNat * a.toNat ∧
    (blendLane old c a).toNat = ((old.toNat * (15 - a.toNat) + c.toNat * a.toNat) / 16) % 16 ∧
    a.toNat ≤ 15 ∧ old.toNat * (15 - a.toNat) ≤ 225 ∧ c.toNat * a.toNat ≤ 225 ∧ laneSum old c a ≤ 225 ∧
    laneSum old c a >>> 4 ≤ 14 ∧ (blendLane old c a).toNat = laneSum old c a >>> 4 ∧ blendLane old c a ≠ 15#4

/-- R133: the integer laws of the lane. -/
def Obligations.BlendLaneLaws : Prop :=
  (∀ old c : Nibble, (blendLane old c 15#4).toNat = (15 * c.toNat) / 16 ∧ (blendLane old c 15#4).toNat = c.toNat - 1) ∧
  (∀ old c : Nibble, (blendLane old c 0#4).toNat = (15 * old.toNat) / 16 ∧
    (blendLane old c 0#4).toNat = old.toNat - 1) ∧
  (∀ x a : Nibble, (blendLane x x a).toNat = (15 * x.toNat) / 16) ∧
  (∀ old old' c a : Nibble, old.toNat ≤ old'.toNat → (blendLane old c a).toNat ≤ (blendLane old' c a).toNat) ∧
  (∀ old c c' a : Nibble, c.toNat ≤ c'.toNat → (blendLane old c a).toNat ≤ (blendLane old c' a).toNat) ∧
  (∀ old c a : Nibble, laneSum old c a < 256)

/-- R134: the background split. -/
def Obligations.BackgroundSplitsIntoSlots : Prop :=
  ∀ bg : Byte, (slotA bg).toNat = bg.toNat % 16 ∧ (slotB bg).toNat = bg.toNat / 16

/-- R138, R139: the blended-decode function, for every foreground and background; the empty foreground goes
with the empty background only. -/
def Obligations.BlendFnFollowsTheRule : Prop :=
  ∀ fg bgs : List Byte,
    ((fg.length % 2 = 1 ∨ fg.length % 4 ≠ 0 ∨ bgs.length * 4 ≠ fg.length) →
      blendFn fg bgs = .err .malformedLength 0#16) ∧
    (fg.length = 0 → bgs.length = 0 → blendFn fg bgs = .ok []) ∧
    (fg.length = 0 → 0 < bgs.length → blendFn fg bgs = .err .malformedLength 0#16) ∧
    (bgs.length * 4 = fg.length → ∀ (i : Nat) (c : Byte), fg[i]? = some c → lookup c = none →
      (∀ j < i, ∀ d, fg[j]? = some d → lookup d ≠ none) →
      blendFn fg bgs = .err .invalidDigit (BitVec.ofNat 16 i)) ∧
    (bgs.length * 4 = fg.length → (∀ c ∈ fg, lookup c ≠ none) →
      ∃ out, blendFn fg bgs = .ok out ∧ out.length = fg.length / 4 ∧
        ∀ (g : Nat) (ca caa cb cba bg : Byte) (a aa b ba : Nibble),
          fg[4 * g]? = some ca → fg[4 * g + 1]? = some caa → fg[4 * g + 2]? = some cb →
          fg[4 * g + 3]? = some cba → bgs[g]? = some bg →
          lookup ca = some a → lookup caa = some aa → lookup cb = some b → lookup cba = some ba →
          out[g]? = some (pack (blendLane (bg.extractLsb' 0 4) a aa) (blendLane (bg.extractLsb' 4 4) b ba)))

/-- R107, R141: on success the output of plain decoding has half the length of its input, and the output of
blended decoding is as long as the background, a quarter of the foreground. -/
def Obligations.OutputLengthsFollowTheInputs : Prop :=
  (∀ h out : List Byte, decodeFn h = .ok out → out.length = h.length / 2) ∧
  ∀ fg bgs out : List Byte, blendFn fg bgs = .ok out →
    out.length = bgs.length ∧ out.length = fg.length / 4

/-- 41_alpha_compositor.md section 2 (the coordinator): output byte g depends only on the four foreground
characters and the background byte of group g. -/
def Obligations.BlendByteDependsOnItsGroupOnly : Prop :=
  ∀ (fg fg' bgs bgs' out out' : List Byte) (g : Nat),
    blendFn fg bgs = .ok out → blendFn fg' bgs' = .ok out' → g < out.length → g < out'.length →
    (∀ j < 4, fg[4 * g + j]? = fg'[4 * g + j]?) → bgs[g]? = bgs'[g]? → out[g]? = out'[g]?

/-- R144: BLEND is not DECODE: "1f2f" decodes to 0xF1 0xF2 and blends onto 0x00 to 0x10. -/
def Obligations.BlendIsNotDecode : Prop :=
  decodeFn [0x31#8, 0x66#8, 0x32#8, 0x66#8] = .ok [0xF1#8, 0xF2#8] ∧
  blendFn [0x31#8, 0x66#8, 0x32#8, 0x66#8] [0x00#8] = .ok [0x10#8]

/-! ### The commands (42_command_control.md, 40_hex_decoder.md R106, 41_alpha_compositor.md R140) -/

/-- 42_command_control.md section 3: ACK clears DONE, ERR, ERR_CODE and ERR_POS and changes nothing else
of the core (the answer field is the port's acknowledgement); IRQ drops. -/
def Obligations.AckClearsTheResult : Prop :=
  ∀ s : State, s.TakesCommands →
    ∃ t, exec .ack s = .next t ∧
      t = { s with done := false, err := false, errCode := 0#4, errPos := 0#16, response := .ack } ∧ t.irq = false

/-- R162: the acceptance of DECODE and of BLEND, whatever result was still posted; no buffer is read and no
length is checked; IRQ drops. -/
def Obligations.AcceptanceStartsTheCommand : Prop :=
  ∀ s : State, s.TakesCommands →
    (∃ t, exec .decode s = .next t ∧
      t = { s with busy := true, done := false, err := false, errCode := 0#4, errPos := 0#16, outLen := 0#16,
                   pendingOp := .decode, response := .ack } ∧ t.irq = false) ∧
    (∃ t, exec .blend s = .next t ∧
      t = { s with busy := true, done := false, err := false, errCode := 0#4, errPos := 0#16, outLen := 0#16,
                   pendingOp := .blend, response := .ack } ∧ t.irq = false)

/-- R163: an illegal command word records IllegalCommand at once, and nothing else changes; IRQ is IE. -/
def Obligations.IllegalCommandIsRecordedAtOnce : Prop :=
  ∀ (s : State) (w : Word) (e : DecodeError), s.TakesCommands → decodeCommand w = .error e →
    ∃ t, deliver (.host (.wr32 0x010#16 w)) s = .next t ∧
      t = { s with done := false, err := true, errCode := 4#4, errPos := 0#16, outLen := 0#16, response := .ack } ∧
      t.irq = s.ie

/-- 42_command_control.md sections 1 and 4, 70_reset_and_hazards.md sections 1 and 2: while BUSY = 1 or RST
is asserted every command write, legal or not, is a busfault without effect: one command at a time, no queue. -/
def Obligations.CommandsAreTurnedAwayWhileBusy : Prop :=
  ∀ s : State, s.busy = true ∨ s.rst = true →
    (∀ i : Instr, exec i s = .next { s with response := .busfaultWrite }) ∧
    ∀ w : Word, deliver (.host (.wr32 0x010#16 w)) s = .next { s with response := .busfaultWrite }

/-- 40_hex_decoder.md section 3 (the DECODE command): DECODE, from the write of its word to its completion:
every error with its code and position, in the order of the checks, and on success every output byte, the old
bytes beyond, and nothing else changed. That the port's last answer stays over the engine's turn is the model's
choice (log 6) and no rule of the spec. -/
def Obligations.DecodeRunsToItsResult : Prop :=
  ∀ s : State, s.TakesCommands →
    deliver (.host (.wr32 0x010#16 0x00000001#32)) s = exec .decode s ∧
    ∃ t, exec .decode s = .next t ∧ t.busy = true ∧
      (s.hexLen.toNat > s.hexCap → t.engineTurn = s.endedInError 3#4 0#16) ∧
      (s.hexLen.toNat ≤ s.hexCap → s.hexLen.toNat % 2 = 1 → t.engineTurn = s.endedInError 1#4 0#16) ∧
      (s.hexLen.toNat ≤ s.hexCap → s.hexLen.toNat % 2 = 0 → ∀ i < s.hexLen.toNat, lookup (s.hexByte i) = none →
        (∀ j < i, lookup (s.hexByte j) ≠ none) → t.engineTurn = s.endedInError 2#4 (BitVec.ofNat 16 i)) ∧
      (s.hexLen.toNat ≤ s.hexCap → s.hexLen.toNat % 2 = 0 → (∀ i < s.hexLen.toNat, lookup (s.hexByte i) ≠ none) →
        (∃ m, t.engineTurn = s.endedWell m (s.hexLen.toNat / 2)) ∧
        (∀ k < s.hexLen.toNat / 2, ∀ lo hi, lookup (s.hexByte (2 * k)) = some lo →
          lookup (s.hexByte (2 * k + 1)) = some hi → t.engineTurn.outByte k = pack lo hi) ∧
        ∀ k, s.hexLen.toNat / 2 ≤ k → t.engineTurn.outByte k = s.outByte k)

/-- 41_alpha_compositor.md section 4 (the BLEND command): BLEND, from the write of its word to its completion, as
`DecodeRunsToItsResult`. That the port's last answer stays over the engine's turn is the model's choice (log 6)
and no rule of the spec. -/
def Obligations.BlendRunsToItsResult : Prop :=
  ∀ s : State, s.TakesCommands →
    deliver (.host (.wr32 0x010#16 0x00000002#32)) s = exec .blend s ∧
    ∃ t, exec .blend s = .next t ∧ t.busy = true ∧
      (s.hexLen.toNat > s.hexCap ∨ s.bgLen.toNat > s.bgCap → t.engineTurn = s.endedInError 3#4 0#16) ∧
      (s.hexLen.toNat ≤ s.hexCap → s.bgLen.toNat ≤ s.bgCap →
        (s.hexLen.toNat % 2 = 1 ∨ s.hexLen.toNat % 4 ≠ 0 ∨ s.bgLen.toNat * 4 ≠ s.hexLen.toNat) →
        t.engineTurn = s.endedInError 1#4 0#16) ∧
      (s.hexLen.toNat ≤ s.hexCap → s.bgLen.toNat * 4 = s.hexLen.toNat →
        ∀ i < s.hexLen.toNat, lookup (s.hexByte i) = none →
        (∀ j < i, lookup (s.hexByte j) ≠ none) → t.engineTurn = s.endedInError 2#4 (BitVec.ofNat 16 i)) ∧
      (s.hexLen.toNat ≤ s.hexCap → s.bgLen.toNat * 4 = s.hexLen.toNat →
        (∀ i < s.hexLen.toNat, lookup (s.hexByte i) ≠ none) →
        (∃ m, t.engineTurn = s.endedWell m (s.hexLen.toNat / 4)) ∧
        (∀ g < s.hexLen.toNat / 4, ∀ a aa b ba, lookup (s.hexByte (4 * g)) = some a →
          lookup (s.hexByte (4 * g + 1)) = some aa → lookup (s.hexByte (4 * g + 2)) = some b →
          lookup (s.hexByte (4 * g + 3)) = some ba →
          t.engineTurn.outByte g =
            pack (blendLane ((s.bgByte g).extractLsb' 0 4) a aa) (blendLane ((s.bgByte g).extractLsb' 4 4) b ba)) ∧
        ∀ k, s.hexLen.toNat / 4 ≤ k → t.engineTurn.outByte k = s.outByte k)

/-- 42_command_control.md section 4: the engine's completion step, in every state in which a command is pending: it commits the outcome
of the pending command, every output byte and the length or none of them, and the engine is idle after it.
That the port's last answer stays is the model's choice (log 6) and no rule of the spec. -/
def Obligations.EngineCommitsTheOutcome : Prop :=
  ∀ (s : State) (r : CommandOutcome), s.rst = false →
    ((s.pendingOp = .decode ∧ r = s.decodeOutcome) ∨ (s.pendingOp = .blend ∧ r = s.blendOutcome)) →
    (∀ out, r = .ok out →
      (∃ m, s.engineTurn =
        { s with outMem := m, outLen := BitVec.ofNat 16 out.length, done := true, err := false, errCode := 0#4,
                 errPos := 0#16, busy := false, pendingOp := .none }) ∧
      s.engineTurn.outLen.toNat = out.length ∧
      ∀ k, s.engineTurn.outByte k = out.getD k (s.outByte k)) ∧
    (∀ kind pos, r = .err kind pos →
      s.engineTurn =
        { s with outLen := 0#16, done := false, err := true, errCode := errorCode kind, errPos := pos,
                 busy := false, pendingOp := .none })

/-- 42_command_control.md section 4: the engine has a step exactly when a command is pending (and RST is not
asserted, 70_reset_and_hazards.md section 1). -/
def Obligations.EngineStepsExactlyWhenPending : Prop :=
  ∀ s : State, s.engineTurn ≠ s ↔ (s.rst = false ∧ s.pendingOp ≠ .none)

/-- R168: the outcome of a command is a function of the command, HEX_CAP, the lengths and the bytes it reads. -/
def Obligations.OutcomeDependsOnItsInputsOnly : Prop :=
  ∀ s u : State, s.pendingOp = u.pendingOp → s.capBlocks = u.capBlocks → s.hexLen = u.hexLen →
    (∀ i < s.hexLen.toNat, i < s.hexCap → s.hexByte i = u.hexByte i) →
    (s.pendingOp = .blend →
      s.bgLen = u.bgLen ∧ ∀ g < s.bgLen.toNat, g < s.bgCap → s.bgByte g = u.bgByte g) →
    s.pendingOutcome = u.pendingOutcome

/-- R67: a running command reads its inputs as they stood at acceptance: no run of host transactions while
BUSY = 1 changes a length, an input buffer, or the outcome that the engine will commit. -/
def Obligations.InputsAreFixedWhileBusy : Prop :=
  ∀ (s : State) (es : List Event), s.busy = true → (∀ e ∈ es, e.isHostTurn = true) →
    ∃ t : State, Host.Core.run Sys2Proof.core es.length (s.withEvents es) = .next t ∧
      t.busy = true ∧ t.pendingOp = s.pendingOp ∧ t.hexLen = s.hexLen ∧ t.bgLen = s.bgLen ∧
      t.hexMem = s.hexMem ∧ t.bgMem = s.bgMem ∧ t.pendingOutcome = s.pendingOutcome

/-- 20_memory.md section 4: once BUSY is 0, the result of the last command stays as it is until the next CMD
write (or a reset), whatever else the host does. -/
def Obligations.ResultIsStableUntilTheNextCommand : Prop :=
  ∀ (s : State) (es : List Event), s.busy = false → s.PendingWhileBusy →
    (∀ e ∈ es, e.isAgentTurn = true ∧ e.writesRegister .cmd = false) →
    ∃ t : State, Host.Core.run Sys2Proof.core es.length (s.withEvents es) = .next t ∧
      t.outMem = s.outMem ∧ t.outLen = s.outLen ∧ t.errPos = s.errPos ∧ t.statusWord = s.statusWord

/-- 42_command_control.md section 4: in a run without a reset every command ends: with the turns that are
scheduled taken and one more, BUSY is 0. That the engine takes its step when no turn is left is the model's
form of the fairness the spec asks for (log 2). -/
def Obligations.EveryCommandEnds : Prop :=
  ∀ s : State, s.rst = false → s.PendingWhileBusy → (∀ e ∈ s.events, e.isAgentTurn = true) →
    ∃ t : State, Host.Core.run Sys2Proof.core (s.events.length + 1) s = .next t ∧ t.busy = false ∧ t.events = []

/-! ### Errors and the interrupt (60_exceptions.md) -/

/-- R189: the order of the checks, on the outcome of both commands. -/
def Obligations.ChecksRunInOrder : Prop :=
  ∀ s : State,
    (s.hexLen.toNat > s.hexCap → s.decodeOutcome = .err .capacityExceeded 0#16) ∧
    (s.hexLen.toNat ≤ s.hexCap → s.hexLen.toNat % 2 = 1 → s.decodeOutcome = .err .malformedLength 0#16) ∧
    (s.hexLen.toNat = 0 → s.decodeOutcome = .ok []) ∧
    (s.hexLen.toNat > s.hexCap ∨ s.bgLen.toNat > s.bgCap → s.blendOutcome = .err .capacityExceeded 0#16) ∧
    (s.hexLen.toNat ≤ s.hexCap → s.bgLen.toNat ≤ s.bgCap →
      (s.hexLen.toNat % 2 = 1 ∨ s.hexLen.toNat % 4 ≠ 0 ∨ s.bgLen.toNat * 4 ≠ s.hexLen.toNat) →
      s.blendOutcome = .err .malformedLength 0#16) ∧
    (s.hexLen.toNat = 0 → s.bgLen.toNat = 0 → s.blendOutcome = .ok []) ∧
    (∀ i < s.hexLen.toNat, s.hexLen.toNat ≤ s.hexCap → lookup (s.hexByte i) = none →
      (∀ j < i, lookup (s.hexByte j) ≠ none) →
      (s.hexLen.toNat % 2 = 0 → s.decodeOutcome = .err .invalidDigit (BitVec.ofNat 16 i)) ∧
      (s.bgLen.toNat * 4 = s.hexLen.toNat → s.blendOutcome = .err .invalidDigit (BitVec.ofNat 16 i))) ∧
    (s.hexLen.toNat ≤ s.hexCap → (∀ i < s.hexLen.toNat, lookup (s.hexByte i) ≠ none) →
      (s.hexLen.toNat % 2 = 0 → ∃ out, s.decodeOutcome = .ok out) ∧
      (s.bgLen.toNat * 4 = s.hexLen.toNat → ∃ out, s.blendOutcome = .ok out))

/-- 60_exceptions.md section 4: a step that records an error leaves OUT_LEN = 0 and changes no buffer, no
input length and not CTRL; the code is one of the four. -/
def Obligations.ErrorEntryExposesNoOutput : Prop :=
  ∀ s t : State, step s = .next t → s.err = false → t.err = true →
    t.outLen = 0#16 ∧ t.done = false ∧ t.busy = false ∧ t.outMem = s.outMem ∧ t.hexMem = s.hexMem ∧
    t.bgMem = s.bgMem ∧ t.hexLen = s.hexLen ∧ t.bgLen = s.bgLen ∧ t.ie = s.ie ∧
    (t.errCode = 1#4 ∨ t.errCode = 2#4 ∨ t.errCode = 3#4 ∨ t.errCode = 4#4)

/-- R191: the interrupt output at every instant, and where it rises: at a completion either way, at an
illegal command word, at a write of 1 to IE while a result is posted, and nowhere else. -/
def Obligations.IrqRisesWithAPostedResult : Prop :=
  (∀ s : State, s.irq = (s.ie && (s.done || s.err))) ∧
  (∀ s : State, s.rst = false → s.pendingOp ≠ .none → s.engineTurn.irq = s.ie) ∧
  (∀ (s : State) (w : Word) (e : DecodeError), s.TakesCommands → decodeCommand w = .error e →
    ∃ t, deliver (.host (.wr32 0x010#16 w)) s = .next t ∧ t.irq = s.ie) ∧
  (∀ (s : State) (v : Word), s.rst = false → v.getLsbD 0 = true →
    ∃ t, deliver (.host (.wr32 0x00C#16 v)) s = .next t ∧ t.irq = (s.done || s.err)) ∧
  (∀ s t : State, step s = .next t → s.irq = false → t.irq = true →
    (s.turn = .engine ∧ s.pendingOp ≠ .none) ∨ (s.turn.writesRegister .cmd = true ∧ s.turn.command = none) ∨
    s.turn.writesRegister .ctrl = true)

/-- R192: IRQ falls at an ACK, at the acceptance of a new command, at a write of 0 to IE, at a reset, and
nowhere else; an illegal command leaves it high. -/
def Obligations.IrqFallsOnlyWhenCleared : Prop :=
  (∀ (s : State) (i : Instr) (t : State), s.TakesCommands → exec i s = .next t → t.irq = false) ∧
  (∀ (s : State) (v : Word), s.rst = false → v.getLsbD 0 = false →
    ∃ t, deliver (.host (.wr32 0x00C#16 v)) s = .next t ∧ t.irq = false) ∧
  (∀ s : State, s.assertReset.irq = false ∧ s.powerOn.irq = false) ∧
  (∀ (s : State) (w : Word) (e : DecodeError), s.TakesCommands → decodeCommand w = .error e → s.irq = true →
    ∃ t, deliver (.host (.wr32 0x010#16 w)) s = .next t ∧ t.irq = true) ∧
  (∀ s t : State, step s = .next t → s.irq = true → t.irq = false →
    s.turn.command ≠ none ∨ (∃ v, s.turn = .host (.wr32 0x00C#16 v) ∧ v.getLsbD 0 = false) ∨
    s.turn.resets = true)

/-- 10_state.md section 3: only a write of CMD, the engine's completion and a reset change a flag or the
error code; and 42_command_control.md section 3: DONE and ERR are both clear after a step that found one of
them set only where the turn was an ACK, the start of a command, or a reset. -/
def Obligations.OnlyCommandsChangeTheFlags : Prop :=
  (∀ s t : State, step s = .next t → t.statusWord ≠ s.statusWord →
    s.turn.writesRegister .cmd = true ∨ (s.turn = .engine ∧ s.pendingOp ≠ .none) ∨ s.turn.resets = true) ∧
  ∀ s t : State, step s = .next t → (s.done = true ∨ s.err = true) → t.done = false → t.err = false →
    s.turn.command ≠ none ∨ s.turn.resets = true

/-! ### The host port (10_state.md, 20_memory.md) -/

/-- R57 (with the busfaults of R211 while RST is asserted): a transaction is a busfault exactly in the listed
cases, and then nothing changes but the port's answer; a busfaulting read returns the data value 0. -/
def Obligations.BusfaultsExactlyAsListed : Prop :=
  ∀ (s : State) (x : Txn),
    (x.Busfaults s → deliver (.host x) s = .next { s with response := x.busfault }) ∧
    (¬x.Busfaults s → ∃ t, deliver (.host x) s = .next t ∧ t.response.isBusfault = false)

/-- 20_memory.md section 3: no read has a side effect, and reading again gives the same answer. -/
def Obligations.ReadsHaveNoSideEffect : Prop :=
  ∀ (s : State) (x : Txn), x.isWrite = false →
    ∃ r, deliver (.host x) s = .next { s with response := r } ∧
      deliver (.host x) { s with response := r } = .next { s with response := r }

/-- R27, R28, R29: ID, VERSION and CAP, at any time; software derives the other capacities from CAP. -/
def Obligations.IdentificationRegistersRead : Prop :=
  ∀ s : State, s.rst = false →
    deliver (.host (.rd32 0x000#16)) s = .next { s with response := .data32 0x32443347#32 } ∧
    [byteOfWord 0x32443347#32 0, byteOfWord 0x32443347#32 1, byteOfWord 0x32443347#32 2,
      byteOfWord 0x32443347#32 3] = [0x47#8, 0x33#8, 0x44#8, 0x32#8] ∧
    deliver (.host (.rd32 0x004#16)) s = .next { s with response := .data32 0x00000001#32 } ∧
    deliver (.host (.rd32 0x008#16)) s = .next { s with response := .data32 (BitVec.ofNat 32 s.hexCap) } ∧
    s.hexCap % 16 = 0 ∧ 16 ≤ s.hexCap ∧ s.hexCap ≤ 16384 ∧ s.bgCap = s.hexCap / 4 ∧ s.outCap = s.hexCap / 2

/-- 10_state.md section 2: the fields of STATUS, CTRL, ERR_POS, HEX_LEN, BG_LEN and OUT_LEN as RD32 returns
them, at any time. -/
def Obligations.FieldRegistersRead : Prop :=
  ∀ s : State, s.rst = false →
    (∃ w : Word, deliver (.host (.rd32 0x014#16)) s = .next { s with response := .data32 w } ∧
      w.getLsbD 0 = s.busy ∧ w.getLsbD 1 = s.done ∧ w.getLsbD 2 = s.err ∧ w.extractLsb' 3 5 = 0#5 ∧
      w.extractLsb' 8 4 = s.errCode ∧ w.extractLsb' 12 20 = 0#20) ∧
    (∃ w : Word, deliver (.host (.rd32 0x00C#16)) s = .next { s with response := .data32 w } ∧
      w.getLsbD 0 = s.ie ∧ w.extractLsb' 1 31 = 0#31) ∧
    (∃ w : Word, deliver (.host (.rd32 0x018#16)) s = .next { s with response := .data32 w } ∧
      w.extractLsb' 0 16 = s.errPos ∧ w.extractLsb' 16 16 = 0#16) ∧
    (∃ w : Word, deliver (.host (.rd32 0x01C#16)) s = .next { s with response := .data32 w } ∧
      w.extractLsb' 0 16 = s.hexLen ∧ w.extractLsb' 16 16 = 0#16) ∧
    (∃ w : Word, deliver (.host (.rd32 0x020#16)) s = .next { s with response := .data32 w } ∧
      w.extractLsb' 0 16 = s.bgLen ∧ w.extractLsb' 16 16 = 0#16) ∧
    (∃ w : Word, deliver (.host (.rd32 0x024#16)) s = .next { s with response := .data32 w } ∧
      w.extractLsb' 0 16 = s.outLen ∧ w.extractLsb' 16 16 = 0#16)

/-- R26: a reserved bit ignores writes and reads as 0. -/
def Obligations.ReservedBitsIgnoreWritesAndReadZero : Prop :=
  ∀ (s : State) (r : Reg),
    (∀ w, s.readRegister r = some w → w &&& ~~~(fieldMask r) = 0#32) ∧
    ∀ v : Word, s.writeRegister v r = s.writeRegister (v &&& fieldMask r) r

/-- 10_state.md section 2 and 70_reset_and_hazards.md section 2: a write of CTRL sets IE at any time and starts
or changes no command; a write of HEX_LEN or BG_LEN stores bits 15:0 unchanged, whatever the capacity. -/
def Obligations.ControlAndLengthWritesStore : Prop :=
  ∀ (s : State) (v : Word), s.rst = false →
    deliver (.host (.wr32 0x00C#16 v)) s = .next { s with ie := v.getLsbD 0, response := .ack } ∧
    (s.busy = false →
      deliver (.host (.wr32 0x01C#16 v)) s = .next { s with hexLen := v.extractLsb' 0 16, response := .ack } ∧
      deliver (.host (.wr32 0x020#16 v)) s = .next { s with bgLen := v.extractLsb' 0 16, response := .ack })

/-- 20_memory.md section 1: an aligned RD32 in a window is the little-endian word of the four bytes that RD8
returns at the four offsets. -/
def Obligations.WordReadsAreLittleEndian : Prop :=
  ∀ (s : State) (a : Half) (b0 b1 b2 b3 : Byte), a.toNat % 4 = 0 →
    s.read8 a = some b0 → s.read8 (a + 1) = some b1 → s.read8 (a + 2) = some b2 → s.read8 (a + 3) = some b3 →
    ∃ w, deliver (.host (.rd32 a)) s = .next { s with response := .data32 w } ∧
      w.toNat = b0.toNat + b1.toNat * 2 ^ 8 + b2.toNat * 2 ^ 16 + b3.toNat * 2 ^ 24

/-- R55: an aligned WR32 on the HEX_MEM or BG_MEM window writes its four bytes, lowest first, and no other
byte and no other state changes. -/
def Obligations.WordWritesAreLittleEndian : Prop :=
  ∀ (s : State) (i : Nat) (v : Word), s.TakesCommands → i % 4 = 0 →
    (i < s.hexCap → ∃ m, deliver (.host (.wr32 (BitVec.ofNat 16 (0x4000 + i)) v)) s =
        .next { s with hexMem := m, response := .ack } ∧
      ∀ j, Buffer.read .hex m j =
        if i ≤ j ∧ j < i + 4 then v.extractLsb' (8 * (j - i)) 8 else s.hexByte j) ∧
    (i < s.bgCap → ∃ m, deliver (.host (.wr32 (BitVec.ofNat 16 (0x8000 + i)) v)) s =
        .next { s with bgMem := m, response := .ack } ∧
      ∀ j, Buffer.read .bg m j =
        if i ≤ j ∧ j < i + 4 then v.extractLsb' (8 * (j - i)) 8 else s.bgByte j)

/-- 20_memory.md section 2: the HEX_MEM and BG_MEM windows byte by byte: RD8 returns the buffer's byte, while
BUSY = 1 too, and WR8 stores one byte and changes nothing else. -/
def Obligations.InputWindowsReadAndWriteBytes : Prop :=
  ∀ (s : State) (i : Nat) (v : Byte), s.rst = false →
    (i < s.hexCap →
      deliver (.host (.rd8 (BitVec.ofNat 16 (0x4000 + i)))) s = .next { s with response := .data8 (s.hexByte i) } ∧
      (s.busy = false → ∃ m, deliver (.host (.wr8 (BitVec.ofNat 16 (0x4000 + i)) v)) s =
          .next { s with hexMem := m, response := .ack } ∧
        ∀ j, Buffer.read .hex m j = if j = i then v else s.hexByte j)) ∧
    (i < s.bgCap →
      deliver (.host (.rd8 (BitVec.ofNat 16 (0x8000 + i)))) s = .next { s with response := .data8 (s.bgByte i) } ∧
      (s.busy = false → ∃ m, deliver (.host (.wr8 (BitVec.ofNat 16 (0x8000 + i)) v)) s =
          .next { s with bgMem := m, response := .ack } ∧
        ∀ j, Buffer.read .bg m j = if j = i then v else s.bgByte j))

/-- R58: the ROM window: RD8 returns the entry zero-extended, an aligned RD32 four entries little-endian,
while BUSY = 1 too; any write is a busfault. -/
def Obligations.RomWindowReadsTheRom : Prop :=
  ∀ s : State, s.rst = false →
    (∀ b < 256, deliver (.host (.rd8 (BitVec.ofNat 16 (0x0100 + b)))) s =
      .next { s with response := .data8 ((rom (BitVec.ofNat 8 b)).zeroExtend 8) }) ∧
    (∀ j < 64, deliver (.host (.rd32 (BitVec.ofNat 16 (0x0100 + 4 * j)))) s =
      .next { s with response := .data32 (joinBytes ((rom (BitVec.ofNat 8 (4 * j))).zeroExtend 8)
        ((rom (BitVec.ofNat 8 (4 * j + 1))).zeroExtend 8) ((rom (BitVec.ofNat 8 (4 * j + 2))).zeroExtend 8)
        ((rom (BitVec.ofNat 8 (4 * j + 3))).zeroExtend 8)) }) ∧
    ∀ (a : Half), InRomWindow a.toNat →
      (∀ v, deliver (.host (.wr8 a v)) s = .next { s with response := .busfaultWrite }) ∧
      ∀ v, deliver (.host (.wr32 a v)) s = .next { s with response := .busfaultWrite }

/-- R61: the OUT_MEM window: RD8 returns the byte while BUSY = 0; beyond OUT_CAP, while BUSY = 1, and for
every write, a busfault. -/
def Obligations.OutputWindowIsReadOnly : Prop :=
  ∀ s : State, s.rst = false →
    (∀ i < s.outCap, s.busy = false →
      deliver (.host (.rd8 (BitVec.ofNat 16 (0xC000 + i)))) s = .next { s with response := .data8 (s.outByte i) }) ∧
    (∀ i < s.outCap, i % 4 = 0 → s.busy = false →
      deliver (.host (.rd32 (BitVec.ofNat 16 (0xC000 + i)))) s =
        .next { s with response := .data32 (joinBytes (s.outByte i) (s.outByte (i + 1)) (s.outByte (i + 2))
          (s.outByte (i + 3))) }) ∧
    (∀ i, s.outCap ≤ i → i ≤ 0x1FFF →
      deliver (.host (.rd8 (BitVec.ofNat 16 (0xC000 + i)))) s = .next { s with response := .busfaultRead 0#32 } ∧
      deliver (.host (.rd32 (BitVec.ofNat 16 (0xC000 + i)))) s = .next { s with response := .busfaultRead 0#32 }) ∧
    ∀ (a : Half), InOutWindow a.toNat →
      (s.busy = true →
        deliver (.host (.rd8 a)) s = .next { s with response := .busfaultRead 0#32 } ∧
        deliver (.host (.rd32 a)) s = .next { s with response := .busfaultRead 0#32 }) ∧
      (∀ v, deliver (.host (.wr8 a v)) s = .next { s with response := .busfaultWrite }) ∧
      ∀ v, deliver (.host (.wr32 a v)) s = .next { s with response := .busfaultWrite }

/-- R216: the busy interlock: each forbidden transaction is a busfault that changes nothing, and the allowed
ones keep their normal effect: the registers are read as they stand, with ERR_POS, OUT_LEN and ERR_CODE
reading 0 (in states that keep the invariant), CTRL can be written, and a read in the HEX_MEM, BG_MEM or ROM
window answers what it answers while idle. -/
def Obligations.BusyInterlock : Prop :=
  ∀ s : State, s.Inv → s.busy = true →
    (∀ x : Txn, x.ForbiddenWhileBusy → deliver (.host x) s = .next { s with response := x.busfault }) ∧
    (∀ r : Reg, r ≠ .cmd → ∃ w, s.readRegister r = some w ∧
      deliver (.host (.rd32 (regOffset r))) s = .next { s with response := .data32 w }) ∧
    s.readRegister .errPos = some 0#32 ∧ s.readRegister .outLen = some 0#32 ∧
    s.readRegister .status = some 0x00000001#32 ∧
    (∀ v, deliver (.host (.wr32 0x00C#16 v)) s = .next { s with ie := v.getLsbD 0, response := .ack }) ∧
    (∀ i < s.hexCap,
      deliver (.host (.rd8 (BitVec.ofNat 16 (0x4000 + i)))) s = .next { s with response := .data8 (s.hexByte i) }) ∧
    (∀ i < s.bgCap,
      deliver (.host (.rd8 (BitVec.ofNat 16 (0x8000 + i)))) s = .next { s with response := .data8 (s.bgByte i) }) ∧
    (∀ b < 256, deliver (.host (.rd8 (BitVec.ofNat 16 (0x0100 + b)))) s =
      .next { s with response := .data8 ((rom (BitVec.ofNat 8 b)).zeroExtend 8) }) ∧
    ∀ x : Txn, x.isWrite = false → (InHexWindow x.offset ∨ InBgWindow x.offset ∨ InRomWindow x.offset) →
      ∃ r, deliver (.host x) s = .next { s with response := r } ∧
        deliver (.host x) { s with busy := false } = .next { s with busy := false, response := r }

/-! ### Reset and power-on (70_reset_and_hazards.md) -/

/-- 70_reset_and_hazards.md section 1: what asserting RST does, in every state: the registers at their reset
values, the input buffers and the parameter unchanged, OUT_MEM unchanged where no command was in progress. That the
port's last answer stays is the model's choice (log 6), and so is that RST is a field of the state (log 7). -/
def Obligations.ResetSetsTheRegisters : Prop :=
  ∀ s : State, ∃ m,
    deliver .assertReset s = .next
      { s with ie := false, busy := false, done := false, err := false, errCode := 0#4, errPos := 0#16,
               hexLen := 0#16, bgLen := 0#16, outLen := 0#16, pendingOp := .none, outMem := m, rst := true } ∧
    (s.busy = false → m = s.outMem) ∧ s.assertReset.irq = false ∧ s.assertReset.statusWord = 0x00000000#32

/-- 70_reset_and_hazards.md section 1: a reset while BUSY = 1 abandons the command: no status, no OUT_LEN;
every byte of OUT_MEM is the free value of a new draw, so any byte at all; the inputs stay. That an unspecified
byte is a free value of a counted draw is the model's form of it (log 5). -/
def Obligations.ResetWhileBusyRedrawsTheOutput : Prop :=
  ∀ s : State, s.busy = true →
    s.assertReset.done = false ∧ s.assertReset.err = false ∧ s.assertReset.outLen = 0#16 ∧
    s.assertReset.pendingOp = .none ∧ s.assertReset.hexMem = s.hexMem ∧ s.assertReset.bgMem = s.bgMem ∧
    ∀ i, s.assertReset.outByte i = Config.freeByte .out (s.outMem.draw + 1) i

/-- 70_reset_and_hazards.md section 1: power-on is a reset after which every byte of the three buffers is the
free value of a new draw. Of the equation's clauses three are the model's choice and no rule of the spec: that an
unspecified byte is a free value of a counted draw (log 5), that power-on leaves RST at the level it had (log 7),
and that the port's last answer stays (log 6). -/
def Obligations.PowerOnRedrawsTheBuffers : Prop :=
  ∀ s : State, ∃ t, deliver .powerOn s = .next t ∧
    t = { s with ie := false, busy := false, done := false, err := false, errCode := 0#4, errPos := 0#16,
                 hexLen := 0#16, bgLen := 0#16, outLen := 0#16, pendingOp := .none, hexMem := t.hexMem,
                 bgMem := t.bgMem, outMem := t.outMem } ∧
    (∀ i, t.hexByte i = Config.freeByte .hex (s.hexMem.draw + 1) i) ∧
    (∀ i, t.bgByte i = Config.freeByte .bg (s.bgMem.draw + 1) i) ∧
    ∀ i, t.outByte i = Config.freeByte .out (s.outMem.draw + 1) i

/-- R211: reset takes precedence: asserting RST abandons the command in progress, and while RST is asserted
every transaction is a busfault and the engine has no step. -/
def Obligations.ResetTakesPrecedence : Prop :=
  (∀ s : State, s.assertReset.pendingOp = .none ∧ s.assertReset.busy = false ∧ s.assertReset.rst = true) ∧
  ∀ s : State, s.rst = true →
    (∀ x : Txn, deliver (.host x) s = .next { s with response := x.busfault }) ∧ s.engineTurn = s

/-- 10_state.md sections 2 and 4, 70_reset_and_hazards.md section 1: what the machine is right after reset: every
register 0, PENDING_OP NONE, IRQ 0, and no byte of a buffer written (each is a free value, log 5). -/
def Obligations.ResetStateHoldsTheResetValues : Prop :=
  State.reset.statusWord = 0#32 ∧ State.reset.ctrlWord = 0#32 ∧ State.reset.errPos = 0#16 ∧
  State.reset.hexLen = 0#16 ∧ State.reset.bgLen = 0#16 ∧ State.reset.outLen = 0#16 ∧
  State.reset.pendingOp = .none ∧ State.reset.irq = false ∧ State.reset.hexMem.cells = [] ∧
  State.reset.bgMem.cells = [] ∧ State.reset.outMem.cells = []

/-- R219: HEX_LEN and BG_LEN keep their values until the host writes them or a reset occurs. -/
def Obligations.LengthsPersist : Prop :=
  ∀ s t : State, step s = .next t →
    (t.hexLen ≠ s.hexLen → s.turn.writesRegister .hexLen = true ∨ s.turn.resets = true) ∧
    (t.bgLen ≠ s.bgLen → s.turn.writesRegister .bgLen = true ∨ s.turn.resets = true)

/-- 10_state.md section 4, 41_alpha_compositor.md section 5: HEX_MEM and BG_MEM change only by a host write in
their window, or at power-on; the engine never writes them. -/
def Obligations.InputBuffersChangeByHostWritesOnly : Prop :=
  ∀ s t : State, step s = .next t →
    (t.hexMem ≠ s.hexMem → s.turn.writesIn InHexWindow ∨ s.turn = .powerOn) ∧
    (t.bgMem ≠ s.bgMem → s.turn.writesIn InBgWindow ∨ s.turn = .powerOn)

/-- 10_state.md section 4, 70_reset_and_hazards.md section 1: OUT_MEM changes only where the engine completes a
command with success, at a reset while BUSY = 1, or at power-on. -/
def Obligations.OutputBufferChangesByCompletionOnly : Prop :=
  ∀ s t : State, step s = .next t → t.outMem ≠ s.outMem →
    (s.turn = .engine ∧ s.pendingOp ≠ .none ∧ t.done = true) ∨
    (s.turn = .assertReset ∧ s.busy = true) ∨ s.turn = .powerOn

/-- 70_reset_and_hazards.md section 2: after a completion the bytes of OUT_MEM from OUT_LEN on are what they
were, and after an error all of them are. -/
def Obligations.StaleOutputKeepsItsValues : Prop :=
  ∀ s : State,
    (∀ k, s.engineTurn.outLen.toNat ≤ k → s.engineTurn.outByte k = s.outByte k) ∧
    (s.engineTurn.err = true → s.engineTurn.outMem = s.outMem)

/-! ### The machine as a whole -/

/-- The invariant of `State.Inv` (R23, R32, R33, R36, R39 to R41, R180, R211): every step keeps it. -/
def Obligations.EveryStepKeepsTheInvariant : Prop :=
  ∀ s t : State, s.Inv → step s = .next t → t.Inv

/-- The invariant holds right after reset. -/
def Obligations.InvariantHoldsAtReset : Prop := State.reset.Inv

/-- 60_exceptions.md: nothing stops the machine: every step answers a next state, whatever the state. That a
busfault is an answer on the port and no stop of the machine is the model's reading (log 8). -/
def Obligations.NothingStopsTheMachine : Prop := ∀ s : State, ∃ t, step s = .next t

/-- A step takes the next turn: where the host writes a word that decodes to the command i, the step is exec
of i with that turn taken off the list; another word is recorded as illegal; where the list is empty it is the
engine's turn. The list of turns, its empty case and the place of the next command are the model's own
(logs 1, 2, 3, 9). -/
def Obligations.StepRunsTheDecodedCommand : Prop :=
  (∀ (s : State) (w : Word) (i : Instr) (es : List Event),
    s.events = .host (.wr32 0x010#16 w) :: es → decodeCommand w = .ok i → step s = exec i (s.withEvents es)) ∧
  (∀ (s : State) (w : Word) (e : DecodeError) (es : List Event),
    s.events = .host (.wr32 0x010#16 w) :: es → decodeCommand w = .error e → step s = execIllegal (s.withEvents es)) ∧
  (∀ (s : State) (e : Event) (es : List Event), s.events = e :: es → step s = deliver e (s.withEvents es)) ∧
  (∀ s : State, s.events = [] → step s = .next s.engineTurn) ∧
  ∀ (s : State) (i : Instr), step (s.withFetchWord 32 (encode i).toNat) = exec i s
end

