-- ==== Sys2Proof/Laws/Operands.lean ====
section
/-! SUPPORT. The laws of the operand forms: packing and splitting, and the byte order of a 32-bit transfer. -/

namespace Sys2Proof.Machine

theorem slotA_pack (lo hi : Nibble) : slotA (pack lo hi) = lo := by
  ext i hi'
  interval_cases i <;> simp [slotA, pack]

theorem slotB_pack (lo hi : Nibble) : slotB (pack lo hi) = hi := by
  ext i hi'
  interval_cases i <;> simp [slotB, pack]

theorem pack_slots (b : Byte) : pack (slotA b) (slotB b) = b := by
  ext i hi
  interval_cases i <;> simp [slotA, slotB, pack]

/-- The byte at addr+0 of a joined word (R54, R55). -/
theorem byteOfWord_join_0 (b0 b1 b2 b3 : Byte) : byteOfWord (joinBytes b0 b1 b2 b3) 0 = b0 := by
  ext i hi
  interval_cases i <;> simp [byteOfWord, joinBytes]

theorem byteOfWord_join_1 (b0 b1 b2 b3 : Byte) : byteOfWord (joinBytes b0 b1 b2 b3) 1 = b1 := by
  ext i hi
  interval_cases i <;> simp [byteOfWord, joinBytes]

theorem byteOfWord_join_2 (b0 b1 b2 b3 : Byte) : byteOfWord (joinBytes b0 b1 b2 b3) 2 = b2 := by
  ext i hi
  interval_cases i <;> simp [byteOfWord, joinBytes]

theorem byteOfWord_join_3 (b0 b1 b2 b3 : Byte) : byteOfWord (joinBytes b0 b1 b2 b3) 3 = b3 := by
  ext i hi
  interval_cases i <;> simp [byteOfWord, joinBytes]

/-- `lookup` as the ROM's own ranges (R101, R102). -/
theorem lookup_eq (c : Byte) :
    lookup c =
      if 0x30 ≤ c.toNat ∧ c.toNat ≤ 0x39 then some (BitVec.ofNat 4 (c.toNat - 0x30))
      else if 0x41 ≤ c.toNat ∧ c.toNat ≤ 0x46 then some (BitVec.ofNat 4 (c.toNat - 0x41 + 10))
      else if 0x61 ≤ c.toNat ∧ c.toNat ≤ 0x66 then some (BitVec.ofNat 4 (c.toNat - 0x61 + 10))
      else none := by
  have valid (n : Nat) : (validEntry n).getLsbD 4 = true ∧ (validEntry n).extractLsb' 0 4 = BitVec.ofNat 4 n := by
    constructor
    · simp [validEntry]
    · ext i hi
      interval_cases i <;> simp [validEntry]
  unfold lookup rom
  by_cases h1 : 0x30 ≤ c.toNat ∧ c.toNat ≤ 0x39
  · simp only [if_pos h1, valid, if_true]
  · by_cases h2 : 0x41 ≤ c.toNat ∧ c.toNat ≤ 0x46
    · simp only [if_neg h1, if_pos h2, valid, if_true]
    · by_cases h3 : 0x61 ≤ c.toNat ∧ c.toNat ≤ 0x66
      · simp only [if_neg h1, if_neg h2, if_pos h3, valid, if_true]
      · simp only [if_neg h1, if_neg h2, if_neg h3]
        rfl

end Sys2Proof.Machine
end

