-- ==== Sys2Proof/Laws/Codec.lean ====
section
/-! SUPPORT. The laws of the scan, of the two packings and of the two codec functions: what each answers,
said once. -/

namespace Sys2Proof.Machine

/-! ### The scan -/

theorem scanDigits_cons_some {c : Byte} {v : Nibble} (h : lookup c = some v) (i : Nat) (cs : List Byte) :
    scanDigits i (c :: cs) =
      match scanDigits (i + 1) cs with
      | .ok vs => .ok (v :: vs)
      | .error j => .error j := by
  cases hs : scanDigits (i + 1) cs <;> simp only [scanDigits, h, hs]

theorem scanDigits_cons_none {c : Byte} (h : lookup c = none) (i : Nat) (cs : List Byte) :
    scanDigits i (c :: cs) = .error i := by
  simp only [scanDigits, h]

/-- The scan succeeds exactly where every character is a hex digit, with the digits' values. -/
theorem scanDigits_ok_iff {i : Nat} {cs : List Byte} {vs : List Nibble} :
    scanDigits i cs = .ok vs ↔ cs.map lookup = vs.map some := by
  induction cs generalizing i vs with
  | nil => cases vs <;> simp [scanDigits]
  | cons c cs ih =>
    cases hc : lookup c with
    | none => cases vs <;> simp [scanDigits_cons_none hc, hc]
    | some v =>
      rw [scanDigits_cons_some hc]
      cases hs : scanDigits (i + 1) cs with
      | error j =>
        refine ⟨fun h => (by cases h), fun h => ?_⟩
        cases vs with
        | nil => simp at h
        | cons w ws =>
          simp only [List.map_cons, List.cons.injEq] at h
          rw [ih.2 h.2] at hs
          cases hs
      | ok ws =>
        have hws := ih.1 hs
        cases vs with
        | nil => simp
        | cons w vs =>
          simp only [List.map_cons, List.cons.injEq, hc, hws, Except.ok.injEq, Option.some.injEq,
            (List.map_injective_iff.2 (Option.some_injective Nibble)).eq_iff]

/-- The scan fails exactly at the lowest index whose character is no hex digit. -/
theorem scanDigits_error_iff {i j : Nat} {cs : List Byte} :
    scanDigits i cs = .error j ↔
      ∃ k c, j = i + k ∧ cs[k]? = some c ∧ lookup c = none ∧
        ∀ l < k, ∀ d, cs[l]? = some d → lookup d ≠ none := by
  induction cs generalizing i j with
  | nil => simp [scanDigits]
  | cons c cs ih =>
    cases hc : lookup c with
    | none =>
      rw [scanDigits_cons_none hc]
      constructor
      · rintro ⟨⟩
        exact ⟨0, c, rfl, rfl, hc, fun l hl => absurd hl (Nat.not_lt_zero l)⟩
      · rintro ⟨k, d, rfl, -, -, hfirst⟩
        cases k with
        | zero => rfl
        | succ k => exact absurd hc (hfirst 0 (Nat.succ_pos k) c rfl)
    | some v =>
      have hstep : scanDigits i (c :: cs) = .error j ↔ scanDigits (i + 1) cs = .error j := by
        rw [scanDigits_cons_some hc]
        cases scanDigits (i + 1) cs <;> simp
      rw [hstep, ih]
      constructor
      · rintro ⟨k, d, rfl, hd, hn, hfirst⟩
        refine ⟨k + 1, d, by omega, by simpa using hd, hn, fun l hl e he => ?_⟩
        cases l with
        | zero =>
          simp only [List.getElem?_cons_zero, Option.some.injEq] at he
          simp [← he, hc]
        | succ l => exact hfirst l (by omega) e (by simpa using he)
      · rintro ⟨k, d, rfl, hd, hn, hfirst⟩
        cases k with
        | zero =>
          simp only [List.getElem?_cons_zero, Option.some.injEq] at hd
          rw [← hd, hc] at hn
          cases hn
        | succ k =>
          exact ⟨k, d, by omega, by simpa using hd, hn,
            fun l hl e he => hfirst (l + 1) (by omega) e (by simpa using he)⟩

theorem scanDigits_length {i : Nat} {cs : List Byte} {vs : List Nibble} (h : scanDigits i cs = .ok vs) :
    vs.length = cs.length := by
  simpa using (congrArg List.length (scanDigits_ok_iff.1 h)).symm

theorem scanDigits_getElem? {i : Nat} {cs : List Byte} {vs : List Nibble} (h : scanDigits i cs = .ok vs)
    {k : Nat} {c : Byte} {v : Nibble} (hc : cs[k]? = some c) (hv : lookup c = some v) : vs[k]? = some v := by
  have := congrArg (fun l => l[k]?) (scanDigits_ok_iff.1 h)
  simp only [List.getElem?_map, hc, Option.map_some, hv] at this
  cases hk : vs[k]? with
  | none => simp [hk] at this
  | some w => simpa [hk] using this.symm

theorem scanDigits_error_lt {i j : Nat} {cs : List Byte} (h : scanDigits i cs = .error j) :
    i ≤ j ∧ j < i + cs.length := by
  obtain ⟨k, c, rfl, hc, -, -⟩ := scanDigits_error_iff.1 h
  have := (List.getElem?_eq_some_iff.1 hc).1
  omega

/-! ### The packings -/

theorem packPairs_length (vs : List Nibble) : (packPairs vs).length = vs.length / 2 := by
  induction vs using packPairs.induct with
  | case1 v0 v1 vs ih =>
    simp only [packPairs, List.length_cons, ih]
    omega
  | case2 vs h =>
    match vs, h with
    | [], _ => simp [packPairs]
    | [v], _ => simp [packPairs]
    | v0 :: v1 :: vs, h => exact absurd rfl (h v0 v1 vs)

theorem packPairs_getElem? {vs : List Nibble} {k : Nat} {lo hi : Nibble} (hlo : vs[2 * k]? = some lo)
    (hhi : vs[2 * k + 1]? = some hi) : (packPairs vs)[k]? = some (pack lo hi) := by
  induction vs using packPairs.induct generalizing k with
  | case1 v0 v1 vs ih =>
    cases k with
    | zero =>
      simp at hlo hhi
      simp [packPairs, hlo, hhi]
    | succ k =>
      rw [show 2 * (k + 1) = 2 * k + 1 + 1 by omega] at hlo hhi
      simp only [List.getElem?_cons_succ] at hlo hhi
      simpa [packPairs] using ih hlo hhi
  | case2 vs h =>
    match vs, h with
    | [], _ => simp at hlo
    | [v], _ => simp at hhi
    | v0 :: v1 :: vs, h => exact absurd rfl (h v0 v1 vs)

theorem blendGroups_length {vs : List Nibble} {bgs : List Byte} (h : bgs.length * 4 = vs.length) :
    (blendGroups vs bgs).length = bgs.length := by
  induction bgs generalizing vs with
  | nil =>
    cases vs with
    | nil => rfl
    | cons v vs => simp at h
  | cons bg bgs ih =>
    match vs, h with
    | a :: aa :: b :: ba :: vs, h =>
      simp only [blendGroups, List.length_cons]
      rw [ih (by simp at h; omega)]
    | [], h => simp at h
    | [_], h => simp at h
    | [_, _], h => simp at h; omega
    | [_, _, _], h => simp at h; omega

theorem blendGroups_getElem? {vs : List Nibble} {bgs : List Byte} {g : Nat} {a aa b ba : Nibble} {bg : Byte}
    (ha : vs[4 * g]? = some a) (haa : vs[4 * g + 1]? = some aa) (hb : vs[4 * g + 2]? = some b)
    (hba : vs[4 * g + 3]? = some ba) (hbg : bgs[g]? = some bg) :
    (blendGroups vs bgs)[g]? = some (blendNibbles a aa b ba bg) := by
  induction g generalizing vs bgs with
  | zero =>
    match vs, bgs with
    | a' :: aa' :: b' :: ba' :: vs, bg' :: bgs =>
      simp at ha haa hb hba hbg
      simp [blendGroups, ha, haa, hb, hba, hbg]
    | _, [] => simp at hbg
    | [], _ => simp at ha
    | [_], _ => simp at haa
    | [_, _], _ => simp at hb
    | [_, _, _], _ => simp at hba
  | succ g ih =>
    rw [show 4 * (g + 1) = 4 * g + 1 + 1 + 1 + 1 by omega] at ha haa hb hba
    match vs, bgs with
    | a' :: aa' :: b' :: ba' :: vs, bg' :: bgs =>
      simp only [List.getElem?_cons_succ] at ha hbg
      rw [show 4 * g + 1 + 1 + 1 + 1 + 1 = 4 * g + 1 + 1 + 1 + 1 + 1 from rfl] at haa
      have haa : vs[4 * g + 1]? = some aa := by simpa using haa
      have hb : vs[4 * g + 2]? = some b := by simpa using hb
      have hba : vs[4 * g + 3]? = some ba := by simpa using hba
      simpa [blendGroups] using ih ha haa hb hba hbg
    | _, [] => simp at hbg
    | [], _ => simp at ha
    | [_], _ => simp at ha
    | [_, _], _ => simp at ha
    | [_, _, _], _ => simp at ha

/-! ### The codec functions -/

/-- Everything plain decoding can answer (R105). -/
theorem decodeFn_cases (h : List Byte) :
    (h.length % 2 = 1 ∧ decodeFn h = .err .malformedLength 0#16) ∨
    (h.length % 2 = 0 ∧ ∃ i, scanDigits 0 h = .error i ∧ decodeFn h = .err .invalidDigit (BitVec.ofNat 16 i)) ∨
    (h.length % 2 = 0 ∧ ∃ vs, scanDigits 0 h = .ok vs ∧ decodeFn h = .ok (packPairs vs)) := by
  unfold decodeFn
  split
  · exact .inl ⟨‹_›, rfl⟩
  · right
    have he : h.length % 2 = 0 := by omega
    split
    · rename_i h0
      rw [List.length_eq_zero_iff] at h0
      subst h0
      exact .inr ⟨he, [], rfl, rfl⟩
    · cases hs : scanDigits 0 h with
      | error i => exact .inl ⟨he, i, rfl, rfl⟩
      | ok vs => exact .inr ⟨he, vs, rfl, rfl⟩

/-- Everything blended decoding can answer (R138). -/
theorem blendFn_cases (fg bgs : List Byte) :
    ((fg.length % 4 ≠ 0 ∨ bgs.length * 4 ≠ fg.length) ∧ blendFn fg bgs = .err .malformedLength 0#16) ∨
    (bgs.length * 4 = fg.length ∧
      ∃ i, scanDigits 0 fg = .error i ∧ blendFn fg bgs = .err .invalidDigit (BitVec.ofNat 16 i)) ∨
    (bgs.length * 4 = fg.length ∧ ∃ vs, scanDigits 0 fg = .ok vs ∧ blendFn fg bgs = .ok (blendGroups vs bgs)) := by
  unfold blendFn
  split
  · exact .inl ⟨.inl (by omega), rfl⟩
  · split
    · exact .inl ⟨.inl ‹_›, rfl⟩
    · split
      · exact .inl ⟨.inr ‹_›, rfl⟩
      · right
        have he : bgs.length * 4 = fg.length := by omega
        split
        · rename_i h0
          rw [List.length_eq_zero_iff] at h0
          subst h0
          exact .inr ⟨he, [], rfl, rfl⟩
        · cases hs : scanDigits 0 fg with
          | error i => exact .inl ⟨he, i, rfl, rfl⟩
          | ok vs => exact .inr ⟨he, vs, rfl, rfl⟩

end Sys2Proof.Machine
end

