-- ==== Sys2Proof/Laws/Memory.lean ====
section
/-! SUPPORT. The laws of the buffer memories: read after write, the canonical form and that every memory
operation keeps it, and that equal contents are equal data. -/

namespace Sys2Proof.Machine

theorem Memory.get?_set_same (m : Memory) (i : Nat) (v : Byte) : Memory.get? (Memory.set m i v) i = some v := by
  induction m with
  | nil => simp [Memory.set, Memory.get?]
  | cons c m ih =>
    obtain ⟨a, w⟩ := c
    rw [Memory.set]
    split
    · simp [Memory.get?]
    · split
      · simp [Memory.get?]
      · rename_i hne
        simp [Memory.get?, hne, ih]

theorem Memory.get?_set_other (m : Memory) {i j : Nat} (v : Byte) (h : j ≠ i) :
    Memory.get? (Memory.set m i v) j = Memory.get? m j := by
  induction m with
  | nil => simp [Memory.set, Memory.get?, h]
  | cons c m ih =>
    obtain ⟨a, w⟩ := c
    rw [Memory.set]
    split
    · simp [Memory.get?, h]
    · split
      · rename_i he
        simp [Memory.get?, ← he, h]
      · simp [Memory.get?, ih]

/-- The cells after a write: the written one, or one that was there. -/
theorem Memory.mem_set {m : Memory} {i : Nat} {v : Byte} {c : Host.Cell} (h : c ∈ Memory.set m i v) :
    c = (i, v) ∨ c ∈ m := by
  induction m with
  | nil => simpa [Memory.set] using h
  | cons d m ih =>
    obtain ⟨a, w⟩ := d
    rw [Memory.set] at h
    split at h
    · simpa using h
    · split at h
      · rcases List.mem_cons.1 h with rfl | h
        · exact .inl rfl
        · exact .inr (List.mem_cons_of_mem _ h)
      · rcases List.mem_cons.1 h with rfl | h
        · exact .inr List.mem_cons_self
        · exact (ih h).imp_right (List.mem_cons_of_mem _)

/-- A write keeps the canonical form. -/
theorem Memory.wf_set {m : Memory} (h : Memory.wf m) (i : Nat) (v : Byte) : Memory.wf (Memory.set m i v) := by
  induction m with
  | nil => simp [Memory.set, Memory.wf]
  | cons c m ih =>
    obtain ⟨a, w⟩ := c
    obtain ⟨ha, hm⟩ := List.pairwise_cons.1 h
    rw [Memory.set]
    split
    · rename_i hlt
      refine List.pairwise_cons.2 ⟨fun d hd => ?_, h⟩
      rcases List.mem_cons.1 hd with rfl | hd
      · exact hlt
      · exact lt_trans hlt (ha d hd)
    · split
      · rename_i he
        subst he
        exact List.pairwise_cons.2 ⟨ha, hm⟩
      · rename_i hge hne
        refine List.pairwise_cons.2 ⟨fun d hd => ?_, ih hm⟩
        rcases Memory.mem_set hd with rfl | hd
        · exact lt_of_le_of_ne (not_lt.1 hge) (Ne.symm hne)
        · exact ha d hd

theorem Memory.get?_eq_none_of_lt {m : Memory} {i : Nat} (h : ∀ c ∈ m, i < c.1) : Memory.get? m i = none := by
  induction m with
  | nil => rfl
  | cons c m ih =>
    have hi := h c List.mem_cons_self
    rw [Memory.get?, if_neg (by omega)]
    exact ih fun d hd => h d (List.mem_cons_of_mem _ hd)

/-- Canonical memories with equal contents are equal data. -/
theorem Memory.ext_of_wf {m n : Memory} (hm : Memory.wf m) (hn : Memory.wf n)
    (h : ∀ i, Memory.get? m i = Memory.get? n i) : m = n := by
  induction m generalizing n with
  | nil =>
    cases n with
    | nil => rfl
    | cons d n => simpa [Memory.get?] using h d.1
  | cons c m ih =>
    cases n with
    | nil => simpa [Memory.get?] using h c.1
    | cons d n =>
      obtain ⟨hc, hm⟩ := List.pairwise_cons.1 hm
      obtain ⟨hd, hn⟩ := List.pairwise_cons.1 hn
      have hkey : c.1 = d.1 := by
        rcases lt_trichotomy c.1 d.1 with hlt | he | hgt
        · have := h c.1
          rw [Memory.get?, if_pos rfl, Memory.get?, if_neg (by omega),
            Memory.get?_eq_none_of_lt fun e he => lt_trans hlt (hd e he)] at this
          cases this
        · exact he
        · have := h d.1
          rw [Memory.get?, if_neg (by omega), Memory.get?, if_pos rfl,
            Memory.get?_eq_none_of_lt fun e he => lt_trans hgt (hc e he)] at this
          cases this
      have hval : c.2 = d.2 := by
        have := h c.1
        rw [Memory.get?, if_pos rfl, Memory.get?, if_pos hkey] at this
        exact Option.some.inj this
      have hrest : m = n := by
        refine ih hm hn fun i => ?_
        by_cases hi : i = c.1
        · subst hi
          rw [Memory.get?_eq_none_of_lt hc, hkey, Memory.get?_eq_none_of_lt hd]
        · have := h i
          rwa [Memory.get?, if_neg hi, Memory.get?, if_neg (hkey ▸ hi)] at this
      rw [hrest, Prod.ext hkey hval]

/-! ### Buffers -/

@[simp] theorem Buffer.write_draw (b : Buffer) (i : Nat) (v : Byte) : (b.write i v).draw = b.draw := rfl
@[simp] theorem Buffer.write_cells (b : Buffer) (i : Nat) (v : Byte) :
    (b.write i v).cells = Memory.set b.cells i v := rfl
@[simp] theorem Buffer.redraw_cells (b : Buffer) : b.redraw.cells = [] := rfl
@[simp] theorem Buffer.redraw_draw (b : Buffer) : b.redraw.draw = b.draw + 1 := rfl

@[simp] theorem Buffer.read_write_same (name : Config.BufferName) (b : Buffer) (i : Nat) (v : Byte) :
    Buffer.read name (b.write i v) i = v := by
  simp [Buffer.read, Memory.get?_set_same]

theorem Buffer.read_write_other (name : Config.BufferName) (b : Buffer) {i j : Nat} (v : Byte) (h : j ≠ i) :
    Buffer.read name (b.write i v) j = Buffer.read name b j := by
  simp [Buffer.read, Memory.get?_set_other _ _ h]

/-- Every byte of a buffer after a write. -/
theorem Buffer.read_write (name : Config.BufferName) (b : Buffer) (i j : Nat) (v : Byte) :
    Buffer.read name (b.write i v) j = if j = i then v else Buffer.read name b j := by
  split
  · rename_i h
    rw [h, Buffer.read_write_same]
  · rename_i h
    exact Buffer.read_write_other name b v h

/-- After a redraw every byte is the free value of the new draw. -/
theorem Buffer.read_redraw (name : Config.BufferName) (b : Buffer) (i : Nat) :
    Buffer.read name b.redraw i = Config.freeByte name (b.draw + 1) i := rfl

theorem Buffer.writeFrom_draw (b : Buffer) (i : Nat) (vs : List Byte) : (b.writeFrom i vs).draw = b.draw := by
  induction vs generalizing b i with
  | nil => rfl
  | cons v vs ih => rw [Buffer.writeFrom, ih, Buffer.write_draw]

theorem Buffer.read_writeFrom_before (name : Config.BufferName) (b : Buffer) (vs : List Byte) {i k : Nat}
    (h : k < i) : Buffer.read name (b.writeFrom i vs) k = Buffer.read name b k := by
  induction vs generalizing b i with
  | nil => rfl
  | cons v vs ih =>
    rw [Buffer.writeFrom, ih _ (by omega), Buffer.read_write_other _ _ _ (by omega)]

/-- Every byte of a buffer after the loop of R166: the output bytes, then the old ones. -/
theorem Buffer.read_writeFrom (name : Config.BufferName) (b : Buffer) (vs : List Byte) (i k : Nat) :
    Buffer.read name (b.writeFrom i vs) (i + k) = vs.getD k (Buffer.read name b (i + k)) := by
  induction vs generalizing b i k with
  | nil => rfl
  | cons v vs ih =>
    rw [Buffer.writeFrom]
    cases k with
    | zero => simp [Buffer.read_writeFrom_before]
    | succ k =>
      rw [show i + (k + 1) = i + 1 + k by omega, ih, Buffer.read_write_other _ _ _ (by omega)]
      simp

end Sys2Proof.Machine
end

