-- ==== Sys2Proof/Laws/State.lean ====
section
/-! SUPPORT. One lemma per field of `State` per update of Machine/Ops.lean, and the capacities, which no
update changes; so that no later proof unfolds an update. -/

namespace Sys2Proof.Machine

/-! ### respond -/

@[simp] theorem State.respond_ie (s : State) (r : Response) : (s.respond r).ie = s.ie := rfl
@[simp] theorem State.respond_busy (s : State) (r : Response) : (s.respond r).busy = s.busy := rfl
@[simp] theorem State.respond_done (s : State) (r : Response) : (s.respond r).done = s.done := rfl
@[simp] theorem State.respond_err (s : State) (r : Response) : (s.respond r).err = s.err := rfl
@[simp] theorem State.respond_errCode (s : State) (r : Response) : (s.respond r).errCode = s.errCode := rfl
@[simp] theorem State.respond_errPos (s : State) (r : Response) : (s.respond r).errPos = s.errPos := rfl
@[simp] theorem State.respond_hexLen (s : State) (r : Response) : (s.respond r).hexLen = s.hexLen := rfl
@[simp] theorem State.respond_bgLen (s : State) (r : Response) : (s.respond r).bgLen = s.bgLen := rfl
@[simp] theorem State.respond_outLen (s : State) (r : Response) : (s.respond r).outLen = s.outLen := rfl
@[simp] theorem State.respond_pendingOp (s : State) (r : Response) : (s.respond r).pendingOp = s.pendingOp := rfl
@[simp] theorem State.respond_hexMem (s : State) (r : Response) : (s.respond r).hexMem = s.hexMem := rfl
@[simp] theorem State.respond_bgMem (s : State) (r : Response) : (s.respond r).bgMem = s.bgMem := rfl
@[simp] theorem State.respond_outMem (s : State) (r : Response) : (s.respond r).outMem = s.outMem := rfl
@[simp] theorem State.respond_capBlocks (s : State) (r : Response) : (s.respond r).capBlocks = s.capBlocks := rfl
@[simp] theorem State.respond_rst (s : State) (r : Response) : (s.respond r).rst = s.rst := rfl
@[simp] theorem State.respond_response (s : State) (r : Response) : (s.respond r).response = r := rfl
@[simp] theorem State.respond_events (s : State) (r : Response) : (s.respond r).events = s.events := rfl
@[simp] theorem State.respond_hexCap (s : State) (r : Response) : (s.respond r).hexCap = s.hexCap := rfl
@[simp] theorem State.respond_bgCap (s : State) (r : Response) : (s.respond r).bgCap = s.bgCap := rfl
@[simp] theorem State.respond_outCap (s : State) (r : Response) : (s.respond r).outCap = s.outCap := rfl

/-! ### withEvents -/

@[simp] theorem State.withEvents_ie (s : State) (es : List Event) : (s.withEvents es).ie = s.ie := rfl
@[simp] theorem State.withEvents_busy (s : State) (es : List Event) : (s.withEvents es).busy = s.busy := rfl
@[simp] theorem State.withEvents_done (s : State) (es : List Event) : (s.withEvents es).done = s.done := rfl
@[simp] theorem State.withEvents_err (s : State) (es : List Event) : (s.withEvents es).err = s.err := rfl
@[simp] theorem State.withEvents_errCode (s : State) (es : List Event) : (s.withEvents es).errCode = s.errCode := rfl
@[simp] theorem State.withEvents_errPos (s : State) (es : List Event) : (s.withEvents es).errPos = s.errPos := rfl
@[simp] theorem State.withEvents_hexLen (s : State) (es : List Event) : (s.withEvents es).hexLen = s.hexLen := rfl
@[simp] theorem State.withEvents_bgLen (s : State) (es : List Event) : (s.withEvents es).bgLen = s.bgLen := rfl
@[simp] theorem State.withEvents_outLen (s : State) (es : List Event) : (s.withEvents es).outLen = s.outLen := rfl
@[simp] theorem State.withEvents_pendingOp (s : State) (es : List Event) : (s.withEvents es).pendingOp = s.pendingOp := rfl
@[simp] theorem State.withEvents_hexMem (s : State) (es : List Event) : (s.withEvents es).hexMem = s.hexMem := rfl
@[simp] theorem State.withEvents_bgMem (s : State) (es : List Event) : (s.withEvents es).bgMem = s.bgMem := rfl
@[simp] theorem State.withEvents_outMem (s : State) (es : List Event) : (s.withEvents es).outMem = s.outMem := rfl
@[simp] theorem State.withEvents_capBlocks (s : State) (es : List Event) : (s.withEvents es).capBlocks = s.capBlocks := rfl
@[simp] theorem State.withEvents_rst (s : State) (es : List Event) : (s.withEvents es).rst = s.rst := rfl
@[simp] theorem State.withEvents_response (s : State) (es : List Event) : (s.withEvents es).response = s.response := rfl
@[simp] theorem State.withEvents_events (s : State) (es : List Event) : (s.withEvents es).events = es := rfl
@[simp] theorem State.withEvents_hexCap (s : State) (es : List Event) : (s.withEvents es).hexCap = s.hexCap := rfl
@[simp] theorem State.withEvents_bgCap (s : State) (es : List Event) : (s.withEvents es).bgCap = s.bgCap := rfl
@[simp] theorem State.withEvents_outCap (s : State) (es : List Event) : (s.withEvents es).outCap = s.outCap := rfl

/-! ### setHexByte -/

@[simp] theorem State.setHexByte_ie (s : State) (i : Nat) (v : Byte) : (s.setHexByte i v).ie = s.ie := rfl
@[simp] theorem State.setHexByte_busy (s : State) (i : Nat) (v : Byte) : (s.setHexByte i v).busy = s.busy := rfl
@[simp] theorem State.setHexByte_done (s : State) (i : Nat) (v : Byte) : (s.setHexByte i v).done = s.done := rfl
@[simp] theorem State.setHexByte_err (s : State) (i : Nat) (v : Byte) : (s.setHexByte i v).err = s.err := rfl
@[simp] theorem State.setHexByte_errCode (s : State) (i : Nat) (v : Byte) : (s.setHexByte i v).errCode = s.errCode := rfl
@[simp] theorem State.setHexByte_errPos (s : State) (i : Nat) (v : Byte) : (s.setHexByte i v).errPos = s.errPos := rfl
@[simp] theorem State.setHexByte_hexLen (s : State) (i : Nat) (v : Byte) : (s.setHexByte i v).hexLen = s.hexLen := rfl
@[simp] theorem State.setHexByte_bgLen (s : State) (i : Nat) (v : Byte) : (s.setHexByte i v).bgLen = s.bgLen := rfl
@[simp] theorem State.setHexByte_outLen (s : State) (i : Nat) (v : Byte) : (s.setHexByte i v).outLen = s.outLen := rfl
@[simp] theorem State.setHexByte_pendingOp (s : State) (i : Nat) (v : Byte) : (s.setHexByte i v).pendingOp = s.pendingOp := rfl
@[simp] theorem State.setHexByte_hexMem (s : State) (i : Nat) (v : Byte) : (s.setHexByte i v).hexMem = s.hexMem.write i v := rfl
@[simp] theorem State.setHexByte_bgMem (s : State) (i : Nat) (v : Byte) : (s.setHexByte i v).bgMem = s.bgMem := rfl
@[simp] theorem State.setHexByte_outMem (s : State) (i : Nat) (v : Byte) : (s.setHexByte i v).outMem = s.outMem := rfl
@[simp] theorem State.setHexByte_capBlocks (s : State) (i : Nat) (v : Byte) : (s.setHexByte i v).capBlocks = s.capBlocks := rfl
@[simp] theorem State.setHexByte_rst (s : State) (i : Nat) (v : Byte) : (s.setHexByte i v).rst = s.rst := rfl
@[simp] theorem State.setHexByte_response (s : State) (i : Nat) (v : Byte) : (s.setHexByte i v).response = s.response := rfl
@[simp] theorem State.setHexByte_events (s : State) (i : Nat) (v : Byte) : (s.setHexByte i v).events = s.events := rfl
@[simp] theorem State.setHexByte_hexCap (s : State) (i : Nat) (v : Byte) : (s.setHexByte i v).hexCap = s.hexCap := rfl
@[simp] theorem State.setHexByte_bgCap (s : State) (i : Nat) (v : Byte) : (s.setHexByte i v).bgCap = s.bgCap := rfl
@[simp] theorem State.setHexByte_outCap (s : State) (i : Nat) (v : Byte) : (s.setHexByte i v).outCap = s.outCap := rfl

/-! ### setBgByte -/

@[simp] theorem State.setBgByte_ie (s : State) (i : Nat) (v : Byte) : (s.setBgByte i v).ie = s.ie := rfl
@[simp] theorem State.setBgByte_busy (s : State) (i : Nat) (v : Byte) : (s.setBgByte i v).busy = s.busy := rfl
@[simp] theorem State.setBgByte_done (s : State) (i : Nat) (v : Byte) : (s.setBgByte i v).done = s.done := rfl
@[simp] theorem State.setBgByte_err (s : State) (i : Nat) (v : Byte) : (s.setBgByte i v).err = s.err := rfl
@[simp] theorem State.setBgByte_errCode (s : State) (i : Nat) (v : Byte) : (s.setBgByte i v).errCode = s.errCode := rfl
@[simp] theorem State.setBgByte_errPos (s : State) (i : Nat) (v : Byte) : (s.setBgByte i v).errPos = s.errPos := rfl
@[simp] theorem State.setBgByte_hexLen (s : State) (i : Nat) (v : Byte) : (s.setBgByte i v).hexLen = s.hexLen := rfl
@[simp] theorem State.setBgByte_bgLen (s : State) (i : Nat) (v : Byte) : (s.setBgByte i v).bgLen = s.bgLen := rfl
@[simp] theorem State.setBgByte_outLen (s : State) (i : Nat) (v : Byte) : (s.setBgByte i v).outLen = s.outLen := rfl
@[simp] theorem State.setBgByte_pendingOp (s : State) (i : Nat) (v : Byte) : (s.setBgByte i v).pendingOp = s.pendingOp := rfl
@[simp] theorem State.setBgByte_hexMem (s : State) (i : Nat) (v : Byte) : (s.setBgByte i v).hexMem = s.hexMem := rfl
@[simp] theorem State.setBgByte_bgMem (s : State) (i : Nat) (v : Byte) : (s.setBgByte i v).bgMem = s.bgMem.write i v := rfl
@[simp] theorem State.setBgByte_outMem (s : State) (i : Nat) (v : Byte) : (s.setBgByte i v).outMem = s.outMem := rfl
@[simp] theorem State.setBgByte_capBlocks (s : State) (i : Nat) (v : Byte) : (s.setBgByte i v).capBlocks = s.capBlocks := rfl
@[simp] theorem State.setBgByte_rst (s : State) (i : Nat) (v : Byte) : (s.setBgByte i v).rst = s.rst := rfl
@[simp] theorem State.setBgByte_response (s : State) (i : Nat) (v : Byte) : (s.setBgByte i v).response = s.response := rfl
@[simp] theorem State.setBgByte_events (s : State) (i : Nat) (v : Byte) : (s.setBgByte i v).events = s.events := rfl
@[simp] theorem State.setBgByte_hexCap (s : State) (i : Nat) (v : Byte) : (s.setBgByte i v).hexCap = s.hexCap := rfl
@[simp] theorem State.setBgByte_bgCap (s : State) (i : Nat) (v : Byte) : (s.setBgByte i v).bgCap = s.bgCap := rfl
@[simp] theorem State.setBgByte_outCap (s : State) (i : Nat) (v : Byte) : (s.setBgByte i v).outCap = s.outCap := rfl

/-! ### setIe -/

@[simp] theorem State.setIe_ie (s : State) (v : Bool) : (s.setIe v).ie = v := rfl
@[simp] theorem State.setIe_busy (s : State) (v : Bool) : (s.setIe v).busy = s.busy := rfl
@[simp] theorem State.setIe_done (s : State) (v : Bool) : (s.setIe v).done = s.done := rfl
@[simp] theorem State.setIe_err (s : State) (v : Bool) : (s.setIe v).err = s.err := rfl
@[simp] theorem State.setIe_errCode (s : State) (v : Bool) : (s.setIe v).errCode = s.errCode := rfl
@[simp] theorem State.setIe_errPos (s : State) (v : Bool) : (s.setIe v).errPos = s.errPos := rfl
@[simp] theorem State.setIe_hexLen (s : State) (v : Bool) : (s.setIe v).hexLen = s.hexLen := rfl
@[simp] theorem State.setIe_bgLen (s : State) (v : Bool) : (s.setIe v).bgLen = s.bgLen := rfl
@[simp] theorem State.setIe_outLen (s : State) (v : Bool) : (s.setIe v).outLen = s.outLen := rfl
@[simp] theorem State.setIe_pendingOp (s : State) (v : Bool) : (s.setIe v).pendingOp = s.pendingOp := rfl
@[simp] theorem State.setIe_hexMem (s : State) (v : Bool) : (s.setIe v).hexMem = s.hexMem := rfl
@[simp] theorem State.setIe_bgMem (s : State) (v : Bool) : (s.setIe v).bgMem = s.bgMem := rfl
@[simp] theorem State.setIe_outMem (s : State) (v : Bool) : (s.setIe v).outMem = s.outMem := rfl
@[simp] theorem State.setIe_capBlocks (s : State) (v : Bool) : (s.setIe v).capBlocks = s.capBlocks := rfl
@[simp] theorem State.setIe_rst (s : State) (v : Bool) : (s.setIe v).rst = s.rst := rfl
@[simp] theorem State.setIe_response (s : State) (v : Bool) : (s.setIe v).response = s.response := rfl
@[simp] theorem State.setIe_events (s : State) (v : Bool) : (s.setIe v).events = s.events := rfl
@[simp] theorem State.setIe_hexCap (s : State) (v : Bool) : (s.setIe v).hexCap = s.hexCap := rfl
@[simp] theorem State.setIe_bgCap (s : State) (v : Bool) : (s.setIe v).bgCap = s.bgCap := rfl
@[simp] theorem State.setIe_outCap (s : State) (v : Bool) : (s.setIe v).outCap = s.outCap := rfl

/-! ### setHexLen -/

@[simp] theorem State.setHexLen_ie (s : State) (v : Half) : (s.setHexLen v).ie = s.ie := rfl
@[simp] theorem State.setHexLen_busy (s : State) (v : Half) : (s.setHexLen v).busy = s.busy := rfl
@[simp] theorem State.setHexLen_done (s : State) (v : Half) : (s.setHexLen v).done = s.done := rfl
@[simp] theorem State.setHexLen_err (s : State) (v : Half) : (s.setHexLen v).err = s.err := rfl
@[simp] theorem State.setHexLen_errCode (s : State) (v : Half) : (s.setHexLen v).errCode = s.errCode := rfl
@[simp] theorem State.setHexLen_errPos (s : State) (v : Half) : (s.setHexLen v).errPos = s.errPos := rfl
@[simp] theorem State.setHexLen_hexLen (s : State) (v : Half) : (s.setHexLen v).hexLen = v := rfl
@[simp] theorem State.setHexLen_bgLen (s : State) (v : Half) : (s.setHexLen v).bgLen = s.bgLen := rfl
@[simp] theorem State.setHexLen_outLen (s : State) (v : Half) : (s.setHexLen v).outLen = s.outLen := rfl
@[simp] theorem State.setHexLen_pendingOp (s : State) (v : Half) : (s.setHexLen v).pendingOp = s.pendingOp := rfl
@[simp] theorem State.setHexLen_hexMem (s : State) (v : Half) : (s.setHexLen v).hexMem = s.hexMem := rfl
@[simp] theorem State.setHexLen_bgMem (s : State) (v : Half) : (s.setHexLen v).bgMem = s.bgMem := rfl
@[simp] theorem State.setHexLen_outMem (s : State) (v : Half) : (s.setHexLen v).outMem = s.outMem := rfl
@[simp] theorem State.setHexLen_capBlocks (s : State) (v : Half) : (s.setHexLen v).capBlocks = s.capBlocks := rfl
@[simp] theorem State.setHexLen_rst (s : State) (v : Half) : (s.setHexLen v).rst = s.rst := rfl
@[simp] theorem State.setHexLen_response (s : State) (v : Half) : (s.setHexLen v).response = s.response := rfl
@[simp] theorem State.setHexLen_events (s : State) (v : Half) : (s.setHexLen v).events = s.events := rfl
@[simp] theorem State.setHexLen_hexCap (s : State) (v : Half) : (s.setHexLen v).hexCap = s.hexCap := rfl
@[simp] theorem State.setHexLen_bgCap (s : State) (v : Half) : (s.setHexLen v).bgCap = s.bgCap := rfl
@[simp] theorem State.setHexLen_outCap (s : State) (v : Half) : (s.setHexLen v).outCap = s.outCap := rfl

/-! ### setBgLen -/

@[simp] theorem State.setBgLen_ie (s : State) (v : Half) : (s.setBgLen v).ie = s.ie := rfl
@[simp] theorem State.setBgLen_busy (s : State) (v : Half) : (s.setBgLen v).busy = s.busy := rfl
@[simp] theorem State.setBgLen_done (s : State) (v : Half) : (s.setBgLen v).done = s.done := rfl
@[simp] theorem State.setBgLen_err (s : State) (v : Half) : (s.setBgLen v).err = s.err := rfl
@[simp] theorem State.setBgLen_errCode (s : State) (v : Half) : (s.setBgLen v).errCode = s.errCode := rfl
@[simp] theorem State.setBgLen_errPos (s : State) (v : Half) : (s.setBgLen v).errPos = s.errPos := rfl
@[simp] theorem State.setBgLen_hexLen (s : State) (v : Half) : (s.setBgLen v).hexLen = s.hexLen := rfl
@[simp] theorem State.setBgLen_bgLen (s : State) (v : Half) : (s.setBgLen v).bgLen = v := rfl
@[simp] theorem State.setBgLen_outLen (s : State) (v : Half) : (s.setBgLen v).outLen = s.outLen := rfl
@[simp] theorem State.setBgLen_pendingOp (s : State) (v : Half) : (s.setBgLen v).pendingOp = s.pendingOp := rfl
@[simp] theorem State.setBgLen_hexMem (s : State) (v : Half) : (s.setBgLen v).hexMem = s.hexMem := rfl
@[simp] theorem State.setBgLen_bgMem (s : State) (v : Half) : (s.setBgLen v).bgMem = s.bgMem := rfl
@[simp] theorem State.setBgLen_outMem (s : State) (v : Half) : (s.setBgLen v).outMem = s.outMem := rfl
@[simp] theorem State.setBgLen_capBlocks (s : State) (v : Half) : (s.setBgLen v).capBlocks = s.capBlocks := rfl
@[simp] theorem State.setBgLen_rst (s : State) (v : Half) : (s.setBgLen v).rst = s.rst := rfl
@[simp] theorem State.setBgLen_response (s : State) (v : Half) : (s.setBgLen v).response = s.response := rfl
@[simp] theorem State.setBgLen_events (s : State) (v : Half) : (s.setBgLen v).events = s.events := rfl
@[simp] theorem State.setBgLen_hexCap (s : State) (v : Half) : (s.setBgLen v).hexCap = s.hexCap := rfl
@[simp] theorem State.setBgLen_bgCap (s : State) (v : Half) : (s.setBgLen v).bgCap = s.bgCap := rfl
@[simp] theorem State.setBgLen_outCap (s : State) (v : Half) : (s.setBgLen v).outCap = s.outCap := rfl

/-! ### enterError -/

@[simp] theorem State.enterError_ie (s : State) (k : ErrKind) (p : Half) : (s.enterError k p).ie = s.ie := rfl
@[simp] theorem State.enterError_busy (s : State) (k : ErrKind) (p : Half) : (s.enterError k p).busy = s.busy := rfl
@[simp] theorem State.enterError_done (s : State) (k : ErrKind) (p : Half) : (s.enterError k p).done = false := rfl
@[simp] theorem State.enterError_err (s : State) (k : ErrKind) (p : Half) : (s.enterError k p).err = true := rfl
@[simp] theorem State.enterError_errCode (s : State) (k : ErrKind) (p : Half) : (s.enterError k p).errCode = errorCode k := rfl
@[simp] theorem State.enterError_errPos (s : State) (k : ErrKind) (p : Half) : (s.enterError k p).errPos = p := rfl
@[simp] theorem State.enterError_hexLen (s : State) (k : ErrKind) (p : Half) : (s.enterError k p).hexLen = s.hexLen := rfl
@[simp] theorem State.enterError_bgLen (s : State) (k : ErrKind) (p : Half) : (s.enterError k p).bgLen = s.bgLen := rfl
@[simp] theorem State.enterError_outLen (s : State) (k : ErrKind) (p : Half) : (s.enterError k p).outLen = 0#16 := rfl
@[simp] theorem State.enterError_pendingOp (s : State) (k : ErrKind) (p : Half) : (s.enterError k p).pendingOp = s.pendingOp := rfl
@[simp] theorem State.enterError_hexMem (s : State) (k : ErrKind) (p : Half) : (s.enterError k p).hexMem = s.hexMem := rfl
@[simp] theorem State.enterError_bgMem (s : State) (k : ErrKind) (p : Half) : (s.enterError k p).bgMem = s.bgMem := rfl
@[simp] theorem State.enterError_outMem (s : State) (k : ErrKind) (p : Half) : (s.enterError k p).outMem = s.outMem := rfl
@[simp] theorem State.enterError_capBlocks (s : State) (k : ErrKind) (p : Half) : (s.enterError k p).capBlocks = s.capBlocks := rfl
@[simp] theorem State.enterError_rst (s : State) (k : ErrKind) (p : Half) : (s.enterError k p).rst = s.rst := rfl
@[simp] theorem State.enterError_response (s : State) (k : ErrKind) (p : Half) : (s.enterError k p).response = s.response := rfl
@[simp] theorem State.enterError_events (s : State) (k : ErrKind) (p : Half) : (s.enterError k p).events = s.events := rfl
@[simp] theorem State.enterError_hexCap (s : State) (k : ErrKind) (p : Half) : (s.enterError k p).hexCap = s.hexCap := rfl
@[simp] theorem State.enterError_bgCap (s : State) (k : ErrKind) (p : Half) : (s.enterError k p).bgCap = s.bgCap := rfl
@[simp] theorem State.enterError_outCap (s : State) (k : ErrKind) (p : Half) : (s.enterError k p).outCap = s.outCap := rfl

/-! ### clearResult -/

@[simp] theorem State.clearResult_ie (s : State) : (s.clearResult).ie = s.ie := rfl
@[simp] theorem State.clearResult_busy (s : State) : (s.clearResult).busy = s.busy := rfl
@[simp] theorem State.clearResult_done (s : State) : (s.clearResult).done = false := rfl
@[simp] theorem State.clearResult_err (s : State) : (s.clearResult).err = false := rfl
@[simp] theorem State.clearResult_errCode (s : State) : (s.clearResult).errCode = 0#4 := rfl
@[simp] theorem State.clearResult_errPos (s : State) : (s.clearResult).errPos = 0#16 := rfl
@[simp] theorem State.clearResult_hexLen (s : State) : (s.clearResult).hexLen = s.hexLen := rfl
@[simp] theorem State.clearResult_bgLen (s : State) : (s.clearResult).bgLen = s.bgLen := rfl
@[simp] theorem State.clearResult_outLen (s : State) : (s.clearResult).outLen = s.outLen := rfl
@[simp] theorem State.clearResult_pendingOp (s : State) : (s.clearResult).pendingOp = s.pendingOp := rfl
@[simp] theorem State.clearResult_hexMem (s : State) : (s.clearResult).hexMem = s.hexMem := rfl
@[simp] theorem State.clearResult_bgMem (s : State) : (s.clearResult).bgMem = s.bgMem := rfl
@[simp] theorem State.clearResult_outMem (s : State) : (s.clearResult).outMem = s.outMem := rfl
@[simp] theorem State.clearResult_capBlocks (s : State) : (s.clearResult).capBlocks = s.capBlocks := rfl
@[simp] theorem State.clearResult_rst (s : State) : (s.clearResult).rst = s.rst := rfl
@[simp] theorem State.clearResult_response (s : State) : (s.clearResult).response = s.response := rfl
@[simp] theorem State.clearResult_events (s : State) : (s.clearResult).events = s.events := rfl
@[simp] theorem State.clearResult_hexCap (s : State) : (s.clearResult).hexCap = s.hexCap := rfl
@[simp] theorem State.clearResult_bgCap (s : State) : (s.clearResult).bgCap = s.bgCap := rfl
@[simp] theorem State.clearResult_outCap (s : State) : (s.clearResult).outCap = s.outCap := rfl

/-! ### accept -/

@[simp] theorem State.accept_ie (s : State) (op : PendingOp) : (s.accept op).ie = s.ie := rfl
@[simp] theorem State.accept_busy (s : State) (op : PendingOp) : (s.accept op).busy = true := rfl
@[simp] theorem State.accept_done (s : State) (op : PendingOp) : (s.accept op).done = false := rfl
@[simp] theorem State.accept_err (s : State) (op : PendingOp) : (s.accept op).err = false := rfl
@[simp] theorem State.accept_errCode (s : State) (op : PendingOp) : (s.accept op).errCode = 0#4 := rfl
@[simp] theorem State.accept_errPos (s : State) (op : PendingOp) : (s.accept op).errPos = 0#16 := rfl
@[simp] theorem State.accept_hexLen (s : State) (op : PendingOp) : (s.accept op).hexLen = s.hexLen := rfl
@[simp] theorem State.accept_bgLen (s : State) (op : PendingOp) : (s.accept op).bgLen = s.bgLen := rfl
@[simp] theorem State.accept_outLen (s : State) (op : PendingOp) : (s.accept op).outLen = 0#16 := rfl
@[simp] theorem State.accept_pendingOp (s : State) (op : PendingOp) : (s.accept op).pendingOp = op := rfl
@[simp] theorem State.accept_hexMem (s : State) (op : PendingOp) : (s.accept op).hexMem = s.hexMem := rfl
@[simp] theorem State.accept_bgMem (s : State) (op : PendingOp) : (s.accept op).bgMem = s.bgMem := rfl
@[simp] theorem State.accept_outMem (s : State) (op : PendingOp) : (s.accept op).outMem = s.outMem := rfl
@[simp] theorem State.accept_capBlocks (s : State) (op : PendingOp) : (s.accept op).capBlocks = s.capBlocks := rfl
@[simp] theorem State.accept_rst (s : State) (op : PendingOp) : (s.accept op).rst = s.rst := rfl
@[simp] theorem State.accept_response (s : State) (op : PendingOp) : (s.accept op).response = s.response := rfl
@[simp] theorem State.accept_events (s : State) (op : PendingOp) : (s.accept op).events = s.events := rfl
@[simp] theorem State.accept_hexCap (s : State) (op : PendingOp) : (s.accept op).hexCap = s.hexCap := rfl
@[simp] theorem State.accept_bgCap (s : State) (op : PendingOp) : (s.accept op).bgCap = s.bgCap := rfl
@[simp] theorem State.accept_outCap (s : State) (op : PendingOp) : (s.accept op).outCap = s.outCap := rfl

/-! ### goIdle -/

@[simp] theorem State.goIdle_ie (s : State) : (s.goIdle).ie = s.ie := rfl
@[simp] theorem State.goIdle_busy (s : State) : (s.goIdle).busy = false := rfl
@[simp] theorem State.goIdle_done (s : State) : (s.goIdle).done = s.done := rfl
@[simp] theorem State.goIdle_err (s : State) : (s.goIdle).err = s.err := rfl
@[simp] theorem State.goIdle_errCode (s : State) : (s.goIdle).errCode = s.errCode := rfl
@[simp] theorem State.goIdle_errPos (s : State) : (s.goIdle).errPos = s.errPos := rfl
@[simp] theorem State.goIdle_hexLen (s : State) : (s.goIdle).hexLen = s.hexLen := rfl
@[simp] theorem State.goIdle_bgLen (s : State) : (s.goIdle).bgLen = s.bgLen := rfl
@[simp] theorem State.goIdle_outLen (s : State) : (s.goIdle).outLen = s.outLen := rfl
@[simp] theorem State.goIdle_pendingOp (s : State) : (s.goIdle).pendingOp = .none := rfl
@[simp] theorem State.goIdle_hexMem (s : State) : (s.goIdle).hexMem = s.hexMem := rfl
@[simp] theorem State.goIdle_bgMem (s : State) : (s.goIdle).bgMem = s.bgMem := rfl
@[simp] theorem State.goIdle_outMem (s : State) : (s.goIdle).outMem = s.outMem := rfl
@[simp] theorem State.goIdle_capBlocks (s : State) : (s.goIdle).capBlocks = s.capBlocks := rfl
@[simp] theorem State.goIdle_rst (s : State) : (s.goIdle).rst = s.rst := rfl
@[simp] theorem State.goIdle_response (s : State) : (s.goIdle).response = s.response := rfl
@[simp] theorem State.goIdle_events (s : State) : (s.goIdle).events = s.events := rfl
@[simp] theorem State.goIdle_hexCap (s : State) : (s.goIdle).hexCap = s.hexCap := rfl
@[simp] theorem State.goIdle_bgCap (s : State) : (s.goIdle).bgCap = s.bgCap := rfl
@[simp] theorem State.goIdle_outCap (s : State) : (s.goIdle).outCap = s.outCap := rfl

/-! ### postResult -/

@[simp] theorem State.postResult_ie (s : State) (out : List Byte) : (s.postResult out).ie = s.ie := rfl
@[simp] theorem State.postResult_busy (s : State) (out : List Byte) : (s.postResult out).busy = s.busy := rfl
@[simp] theorem State.postResult_done (s : State) (out : List Byte) : (s.postResult out).done = true := rfl
@[simp] theorem State.postResult_err (s : State) (out : List Byte) : (s.postResult out).err = false := rfl
@[simp] theorem State.postResult_errCode (s : State) (out : List Byte) : (s.postResult out).errCode = 0#4 := rfl
@[simp] theorem State.postResult_errPos (s : State) (out : List Byte) : (s.postResult out).errPos = 0#16 := rfl
@[simp] theorem State.postResult_hexLen (s : State) (out : List Byte) : (s.postResult out).hexLen = s.hexLen := rfl
@[simp] theorem State.postResult_bgLen (s : State) (out : List Byte) : (s.postResult out).bgLen = s.bgLen := rfl
@[simp] theorem State.postResult_outLen (s : State) (out : List Byte) : (s.postResult out).outLen = BitVec.ofNat 16 out.length := rfl
@[simp] theorem State.postResult_pendingOp (s : State) (out : List Byte) : (s.postResult out).pendingOp = s.pendingOp := rfl
@[simp] theorem State.postResult_hexMem (s : State) (out : List Byte) : (s.postResult out).hexMem = s.hexMem := rfl
@[simp] theorem State.postResult_bgMem (s : State) (out : List Byte) : (s.postResult out).bgMem = s.bgMem := rfl
@[simp] theorem State.postResult_outMem (s : State) (out : List Byte) : (s.postResult out).outMem = s.outMem.writeFrom 0 out := rfl
@[simp] theorem State.postResult_capBlocks (s : State) (out : List Byte) : (s.postResult out).capBlocks = s.capBlocks := rfl
@[simp] theorem State.postResult_rst (s : State) (out : List Byte) : (s.postResult out).rst = s.rst := rfl
@[simp] theorem State.postResult_response (s : State) (out : List Byte) : (s.postResult out).response = s.response := rfl
@[simp] theorem State.postResult_events (s : State) (out : List Byte) : (s.postResult out).events = s.events := rfl
@[simp] theorem State.postResult_hexCap (s : State) (out : List Byte) : (s.postResult out).hexCap = s.hexCap := rfl
@[simp] theorem State.postResult_bgCap (s : State) (out : List Byte) : (s.postResult out).bgCap = s.bgCap := rfl
@[simp] theorem State.postResult_outCap (s : State) (out : List Byte) : (s.postResult out).outCap = s.outCap := rfl

/-! ### resetRegisters -/

@[simp] theorem State.resetRegisters_ie (s : State) : (s.resetRegisters).ie = false := rfl
@[simp] theorem State.resetRegisters_busy (s : State) : (s.resetRegisters).busy = false := rfl
@[simp] theorem State.resetRegisters_done (s : State) : (s.resetRegisters).done = false := rfl
@[simp] theorem State.resetRegisters_err (s : State) : (s.resetRegisters).err = false := rfl
@[simp] theorem State.resetRegisters_errCode (s : State) : (s.resetRegisters).errCode = 0#4 := rfl
@[simp] theorem State.resetRegisters_errPos (s : State) : (s.resetRegisters).errPos = 0#16 := rfl
@[simp] theorem State.resetRegisters_hexLen (s : State) : (s.resetRegisters).hexLen = 0#16 := rfl
@[simp] theorem State.resetRegisters_bgLen (s : State) : (s.resetRegisters).bgLen = 0#16 := rfl
@[simp] theorem State.resetRegisters_outLen (s : State) : (s.resetRegisters).outLen = 0#16 := rfl
@[simp] theorem State.resetRegisters_pendingOp (s : State) : (s.resetRegisters).pendingOp = .none := rfl
@[simp] theorem State.resetRegisters_hexMem (s : State) : (s.resetRegisters).hexMem = s.hexMem := rfl
@[simp] theorem State.resetRegisters_bgMem (s : State) : (s.resetRegisters).bgMem = s.bgMem := rfl
@[simp] theorem State.resetRegisters_outMem (s : State) : (s.resetRegisters).outMem = s.outMem := rfl
@[simp] theorem State.resetRegisters_capBlocks (s : State) : (s.resetRegisters).capBlocks = s.capBlocks := rfl
@[simp] theorem State.resetRegisters_rst (s : State) : (s.resetRegisters).rst = s.rst := rfl
@[simp] theorem State.resetRegisters_response (s : State) : (s.resetRegisters).response = s.response := rfl
@[simp] theorem State.resetRegisters_events (s : State) : (s.resetRegisters).events = s.events := rfl
@[simp] theorem State.resetRegisters_hexCap (s : State) : (s.resetRegisters).hexCap = s.hexCap := rfl
@[simp] theorem State.resetRegisters_bgCap (s : State) : (s.resetRegisters).bgCap = s.bgCap := rfl
@[simp] theorem State.resetRegisters_outCap (s : State) : (s.resetRegisters).outCap = s.outCap := rfl

/-! ### assertReset -/

@[simp] theorem State.assertReset_ie (s : State) : (s.assertReset).ie = false := rfl
@[simp] theorem State.assertReset_busy (s : State) : (s.assertReset).busy = false := rfl
@[simp] theorem State.assertReset_done (s : State) : (s.assertReset).done = false := rfl
@[simp] theorem State.assertReset_err (s : State) : (s.assertReset).err = false := rfl
@[simp] theorem State.assertReset_errCode (s : State) : (s.assertReset).errCode = 0#4 := rfl
@[simp] theorem State.assertReset_errPos (s : State) : (s.assertReset).errPos = 0#16 := rfl
@[simp] theorem State.assertReset_hexLen (s : State) : (s.assertReset).hexLen = 0#16 := rfl
@[simp] theorem State.assertReset_bgLen (s : State) : (s.assertReset).bgLen = 0#16 := rfl
@[simp] theorem State.assertReset_outLen (s : State) : (s.assertReset).outLen = 0#16 := rfl
@[simp] theorem State.assertReset_pendingOp (s : State) : (s.assertReset).pendingOp = .none := rfl
@[simp] theorem State.assertReset_hexMem (s : State) : (s.assertReset).hexMem = s.hexMem := rfl
@[simp] theorem State.assertReset_bgMem (s : State) : (s.assertReset).bgMem = s.bgMem := rfl
@[simp] theorem State.assertReset_outMem (s : State) : (s.assertReset).outMem = if s.busy then s.outMem.redraw else s.outMem := rfl
@[simp] theorem State.assertReset_capBlocks (s : State) : (s.assertReset).capBlocks = s.capBlocks := rfl
@[simp] theorem State.assertReset_rst (s : State) : (s.assertReset).rst = true := rfl
@[simp] theorem State.assertReset_response (s : State) : (s.assertReset).response = s.response := rfl
@[simp] theorem State.assertReset_events (s : State) : (s.assertReset).events = s.events := rfl
@[simp] theorem State.assertReset_hexCap (s : State) : (s.assertReset).hexCap = s.hexCap := rfl
@[simp] theorem State.assertReset_bgCap (s : State) : (s.assertReset).bgCap = s.bgCap := rfl
@[simp] theorem State.assertReset_outCap (s : State) : (s.assertReset).outCap = s.outCap := rfl

/-! ### releaseReset -/

@[simp] theorem State.releaseReset_ie (s : State) : (s.releaseReset).ie = s.ie := rfl
@[simp] theorem State.releaseReset_busy (s : State) : (s.releaseReset).busy = s.busy := rfl
@[simp] theorem State.releaseReset_done (s : State) : (s.releaseReset).done = s.done := rfl
@[simp] theorem State.releaseReset_err (s : State) : (s.releaseReset).err = s.err := rfl
@[simp] theorem State.releaseReset_errCode (s : State) : (s.releaseReset).errCode = s.errCode := rfl
@[simp] theorem State.releaseReset_errPos (s : State) : (s.releaseReset).errPos = s.errPos := rfl
@[simp] theorem State.releaseReset_hexLen (s : State) : (s.releaseReset).hexLen = s.hexLen := rfl
@[simp] theorem State.releaseReset_bgLen (s : State) : (s.releaseReset).bgLen = s.bgLen := rfl
@[simp] theorem State.releaseReset_outLen (s : State) : (s.releaseReset).outLen = s.outLen := rfl
@[simp] theorem State.releaseReset_pendingOp (s : State) : (s.releaseReset).pendingOp = s.pendingOp := rfl
@[simp] theorem State.releaseReset_hexMem (s : State) : (s.releaseReset).hexMem = s.hexMem := rfl
@[simp] theorem State.releaseReset_bgMem (s : State) : (s.releaseReset).bgMem = s.bgMem := rfl
@[simp] theorem State.releaseReset_outMem (s : State) : (s.releaseReset).outMem = s.outMem := rfl
@[simp] theorem State.releaseReset_capBlocks (s : State) : (s.releaseReset).capBlocks = s.capBlocks := rfl
@[simp] theorem State.releaseReset_rst (s : State) : (s.releaseReset).rst = false := rfl
@[simp] theorem State.releaseReset_response (s : State) : (s.releaseReset).response = s.response := rfl
@[simp] theorem State.releaseReset_events (s : State) : (s.releaseReset).events = s.events := rfl
@[simp] theorem State.releaseReset_hexCap (s : State) : (s.releaseReset).hexCap = s.hexCap := rfl
@[simp] theorem State.releaseReset_bgCap (s : State) : (s.releaseReset).bgCap = s.bgCap := rfl
@[simp] theorem State.releaseReset_outCap (s : State) : (s.releaseReset).outCap = s.outCap := rfl

/-! ### powerOn -/

@[simp] theorem State.powerOn_ie (s : State) : (s.powerOn).ie = false := rfl
@[simp] theorem State.powerOn_busy (s : State) : (s.powerOn).busy = false := rfl
@[simp] theorem State.powerOn_done (s : State) : (s.powerOn).done = false := rfl
@[simp] theorem State.powerOn_err (s : State) : (s.powerOn).err = false := rfl
@[simp] theorem State.powerOn_errCode (s : State) : (s.powerOn).errCode = 0#4 := rfl
@[simp] theorem State.powerOn_errPos (s : State) : (s.powerOn).errPos = 0#16 := rfl
@[simp] theorem State.powerOn_hexLen (s : State) : (s.powerOn).hexLen = 0#16 := rfl
@[simp] theorem State.powerOn_bgLen (s : State) : (s.powerOn).bgLen = 0#16 := rfl
@[simp] theorem State.powerOn_outLen (s : State) : (s.powerOn).outLen = 0#16 := rfl
@[simp] theorem State.powerOn_pendingOp (s : State) : (s.powerOn).pendingOp = .none := rfl
@[simp] theorem State.powerOn_hexMem (s : State) : (s.powerOn).hexMem = s.hexMem.redraw := rfl
@[simp] theorem State.powerOn_bgMem (s : State) : (s.powerOn).bgMem = s.bgMem.redraw := rfl
@[simp] theorem State.powerOn_outMem (s : State) : (s.powerOn).outMem = s.outMem.redraw := rfl
@[simp] theorem State.powerOn_capBlocks (s : State) : (s.powerOn).capBlocks = s.capBlocks := rfl
@[simp] theorem State.powerOn_rst (s : State) : (s.powerOn).rst = s.rst := rfl
@[simp] theorem State.powerOn_response (s : State) : (s.powerOn).response = s.response := rfl
@[simp] theorem State.powerOn_events (s : State) : (s.powerOn).events = s.events := rfl
@[simp] theorem State.powerOn_hexCap (s : State) : (s.powerOn).hexCap = s.hexCap := rfl
@[simp] theorem State.powerOn_bgCap (s : State) : (s.powerOn).bgCap = s.bgCap := rfl
@[simp] theorem State.powerOn_outCap (s : State) : (s.powerOn).outCap = s.outCap := rfl

end Sys2Proof.Machine
end

