-- ==== Sys2Proof/Laws/Port.lean ====
section
/-! SUPPORT. What the host port can do, said once per operation: where an offset lies, what a write stores,
what an answer changes. -/

namespace Sys2Proof.Machine

/-! ### Capacities -/

theorem State.hexCap_mod (s : State) : s.hexCap % 16 = 0 := by
  unfold State.hexCap
  omega

theorem State.hexCap_bounds (s : State) : 16 ≤ s.hexCap ∧ s.hexCap ≤ 16384 := by
  have := s.capBlocks.isLt
  unfold State.hexCap
  omega

theorem State.bgCap_four (s : State) : s.bgCap * 4 = s.hexCap := by
  have := s.hexCap_mod
  unfold State.bgCap
  omega

theorem State.outCap_two (s : State) : s.outCap * 2 = s.hexCap := by
  have := s.hexCap_mod
  unfold State.outCap
  omega

/-! ### The address map -/

theorem regAt_eq_some {o : Nat} {r : Reg} : regAt o = some r ↔ o = (regOffset r).toNat := by
  constructor
  · intro h
    unfold regAt at h
    split at h <;> cases h <;> rfl
  · rintro rfl
    cases r <;> rfl

/-- Everything an offset can be (R62), each with the offsets that give it. -/
theorem State.locate_cases (s : State) (a : Half) :
    (∃ r, a.toNat = (regOffset r).toNat ∧ s.locate a = .register r) ∨
    (∃ b : Byte, a.toNat = 0x0100 + b.toNat ∧ s.locate a = .romEntry b) ∨
    (∃ i, i < s.hexCap ∧ a.toNat = 0x4000 + i ∧ s.locate a = .hexByte i) ∨
    (∃ i, i < s.bgCap ∧ a.toNat = 0x8000 + i ∧ s.locate a = .bgByte i) ∨
    (∃ i, i < s.outCap ∧ a.toNat = 0xC000 + i ∧ s.locate a = .outByte i) ∨
    (s.locate a = .unassigned ∧
      ((a.toNat < 0x0100 ∧ ∀ r, a.toNat ≠ (regOffset r).toNat) ∨
       (0x0200 ≤ a.toNat ∧ a.toNat < 0x4000) ∨
       (0x4000 + s.hexCap ≤ a.toNat ∧ a.toNat < 0x8000) ∨
       (0x8000 + s.bgCap ≤ a.toNat ∧ a.toNat < 0x9000) ∨
       (0x9000 ≤ a.toNat ∧ a.toNat < 0xC000) ∨
       (0xC000 + s.outCap ≤ a.toNat ∧ a.toNat < 0xE000) ∨ 0xE000 ≤ a.toNat)) := by
  have hlt := a.isLt
  unfold State.locate
  dsimp only
  split
  · cases hr : regAt a.toNat with
    | some r => exact .inl ⟨r, regAt_eq_some.1 hr, rfl⟩
    | none =>
      refine .inr (.inr (.inr (.inr (.inr ⟨rfl, .inl ⟨‹_›, fun r h => ?_⟩⟩))))
      rw [regAt_eq_some.2 h] at hr
      cases hr
  · split
    · refine .inr (.inl ⟨_, ?_, rfl⟩)
      rw [BitVec.toNat_ofNat]
      omega
    · split
      · split
        · exact .inr (.inr (.inl ⟨_, ‹_›, by omega, rfl⟩))
        · exact .inr (.inr (.inr (.inr (.inr ⟨rfl, by omega⟩))))
      · split
        · split
          · exact .inr (.inr (.inr (.inl ⟨_, ‹_›, by omega, rfl⟩)))
          · exact .inr (.inr (.inr (.inr (.inr ⟨rfl, by omega⟩))))
        · split
          · split
            · exact .inr (.inr (.inr (.inr (.inl ⟨_, ‹_›, by omega, rfl⟩))))
            · exact .inr (.inr (.inr (.inr (.inr ⟨rfl, by omega⟩))))
          · exact .inr (.inr (.inr (.inr (.inr ⟨rfl, by omega⟩))))

theorem State.locate_register (s : State) (r : Reg) : s.locate (regOffset r) = .register r := by
  cases r <;> rfl

theorem State.locate_rom (s : State) {a : Half} {b : Byte} (h : a.toNat = 0x0100 + b.toNat) :
    s.locate a = .romEntry b := by
  have := b.isLt
  unfold State.locate
  dsimp only
  rw [if_neg (by omega), if_pos (by omega), h, Nat.add_sub_cancel_left, BitVec.ofNat_toNat,
    BitVec.setWidth_eq]

theorem State.locate_hex (s : State) {a : Half} {i : Nat} (h : a.toNat = 0x4000 + i) (hi : i < s.hexCap) :
    s.locate a = .hexByte i := by
  have := s.hexCap_bounds
  unfold State.locate
  dsimp only
  rw [if_neg (by omega), if_neg (by omega), if_pos (by omega), h, Nat.add_sub_cancel_left, if_pos hi]

theorem State.locate_bg (s : State) {a : Half} {i : Nat} (h : a.toNat = 0x8000 + i) (hi : i < s.bgCap) :
    s.locate a = .bgByte i := by
  have := s.hexCap_bounds
  have := s.bgCap_four
  unfold State.locate
  dsimp only
  rw [if_neg (by omega), if_neg (by omega), if_neg (by omega), if_pos (by omega), h, Nat.add_sub_cancel_left,
    if_pos hi]

theorem State.locate_out (s : State) {a : Half} {i : Nat} (h : a.toNat = 0xC000 + i) (hi : i < s.outCap) :
    s.locate a = .outByte i := by
  have := s.hexCap_bounds
  have := s.outCap_two
  unfold State.locate
  dsimp only
  rw [if_neg (by omega), if_neg (by omega), if_neg (by omega), if_neg (by omega), if_pos (by omega), h,
    Nat.add_sub_cancel_left, if_pos hi]

/-! ### Writes -/

/-- Everything a byte store can do. -/
theorem State.storeByte_cases {s t : State} {a : Half} {v : Byte} (h : s.storeByte a v = some t) :
    s.busy = false ∧
    ((∃ i, i < s.hexCap ∧ a.toNat = 0x4000 + i ∧ t = s.setHexByte i v) ∨
     (∃ i, i < s.bgCap ∧ a.toNat = 0x8000 + i ∧ t = s.setBgByte i v)) := by
  unfold State.storeByte at h
  rcases s.locate_cases a with ⟨r, -, hl⟩ | ⟨b, -, hl⟩ | ⟨i, hi, ha, hl⟩ | ⟨i, hi, ha, hl⟩ | ⟨i, -, -, hl⟩ | ⟨hl, -⟩ <;>
    rw [hl] at h
  · cases h
  · cases h
  · cases hb : s.busy <;> simp only [hb, if_true, Bool.false_eq_true, if_false] at h
    · exact ⟨rfl, .inl ⟨i, hi, ha, (Option.some.inj h).symm⟩⟩
    · cases h
  · cases hb : s.busy <;> simp only [hb, if_true, Bool.false_eq_true, if_false] at h
    · exact ⟨rfl, .inr ⟨i, hi, ha, (Option.some.inj h).symm⟩⟩
    · cases h
  · cases h
  · cases h

theorem State.storeByte_hex {s : State} {a : Half} {i : Nat} (v : Byte) (hb : s.busy = false)
    (h : a.toNat = 0x4000 + i) (hi : i < s.hexCap) : s.storeByte a v = some (s.setHexByte i v) := by
  simp [State.storeByte, s.locate_hex h hi, hb]

theorem State.storeByte_bg {s : State} {a : Half} {i : Nat} (v : Byte) (hb : s.busy = false)
    (h : a.toNat = 0x8000 + i) (hi : i < s.bgCap) : s.storeByte a v = some (s.setBgByte i v) := by
  simp [State.storeByte, s.locate_bg h hi, hb]

/-- The state after an aligned 32-bit write at index `i` of HEX_MEM (R55). -/
def State.setHexWord (i : Nat) (v : Word) (s : State) : State :=
  (((s.setHexByte i (byteOfWord v 0)).setHexByte (i + 1) (byteOfWord v 1)).setHexByte (i + 2)
    (byteOfWord v 2)).setHexByte (i + 3) (byteOfWord v 3)

/-- The state after an aligned 32-bit write at index `i` of BG_MEM (R55). -/
def State.setBgWord (i : Nat) (v : Word) (s : State) : State :=
  (((s.setBgByte i (byteOfWord v 0)).setBgByte (i + 1) (byteOfWord v 1)).setBgByte (i + 2)
    (byteOfWord v 2)).setBgByte (i + 3) (byteOfWord v 3)

theorem offset_add {a : Half} (k : Nat) (h : a.toNat + k < 0x10000) : (a + BitVec.ofNat 16 k).toNat = a.toNat + k := by
  rw [BitVec.toNat_add, BitVec.toNat_ofNat, Nat.mod_eq_of_lt (show k < 2 ^ 16 by omega)]
  exact Nat.mod_eq_of_lt h

theorem State.storeWord_hex {s : State} {a : Half} {i : Nat} (v : Word) (hb : s.busy = false)
    (h : a.toNat = 0x4000 + i) (hi : i + 3 < s.hexCap) : s.storeWord a v = some (s.setHexWord i v) := by
  have hc := s.hexCap_bounds
  have h1 : (a + 1).toNat = 0x4000 + (i + 1) := by rw [show (1 : Half) = BitVec.ofNat 16 1 from rfl, offset_add 1 (by omega)]; omega
  have h2 : (a + 2).toNat = 0x4000 + (i + 2) := by rw [show (2 : Half) = BitVec.ofNat 16 2 from rfl, offset_add 2 (by omega)]; omega
  have h3 : (a + 3).toNat = 0x4000 + (i + 3) := by rw [show (3 : Half) = BitVec.ofNat 16 3 from rfl, offset_add 3 (by omega)]; omega
  unfold State.storeWord State.setHexWord
  rw [State.storeByte_hex _ hb h (by omega), Option.bind_eq_bind, Option.bind_some,
    State.storeByte_hex _ (by simpa using hb) h1 (by simp; omega), Option.bind_some,
    State.storeByte_hex _ (by simpa using hb) h2 (by simp; omega), Option.bind_some,
    State.storeByte_hex _ (by simpa using hb) h3 (by simp; omega)]

theorem State.storeWord_bg {s : State} {a : Half} {i : Nat} (v : Word) (hb : s.busy = false)
    (h : a.toNat = 0x8000 + i) (hi : i + 3 < s.bgCap) : s.storeWord a v = some (s.setBgWord i v) := by
  have hc := s.hexCap_bounds
  have hg := s.bgCap_four
  have h1 : (a + 1).toNat = 0x8000 + (i + 1) := by rw [show (1 : Half) = BitVec.ofNat 16 1 from rfl, offset_add 1 (by omega)]; omega
  have h2 : (a + 2).toNat = 0x8000 + (i + 2) := by rw [show (2 : Half) = BitVec.ofNat 16 2 from rfl, offset_add 2 (by omega)]; omega
  have h3 : (a + 3).toNat = 0x8000 + (i + 3) := by rw [show (3 : Half) = BitVec.ofNat 16 3 from rfl, offset_add 3 (by omega)]; omega
  unfold State.storeWord State.setBgWord
  rw [State.storeByte_bg _ hb h (by omega), Option.bind_eq_bind, Option.bind_some,
    State.storeByte_bg _ (by simpa using hb) h1 (by simp; omega), Option.bind_some,
    State.storeByte_bg _ (by simpa using hb) h2 (by simp; omega), Option.bind_some,
    State.storeByte_bg _ (by simpa using hb) h3 (by simp; omega)]

theorem State.storeWord_none {s : State} {a : Half} (v : Word) (h : s.storeByte a (byteOfWord v 0) = none) :
    s.storeWord a v = none := by
  unfold State.storeWord
  rw [h, Option.bind_eq_bind, Option.bind_none]

/-- Everything a WR8 that is no busfault can do. -/
theorem State.write8_cases {s t : State} {a : Half} {v : Byte} (h : s.write8 a v = some t) :
    s.rst = false ∧ s.busy = false ∧
    ((∃ i, i < s.hexCap ∧ a.toNat = 0x4000 + i ∧ t = s.setHexByte i v) ∨
     (∃ i, i < s.bgCap ∧ a.toNat = 0x8000 + i ∧ t = s.setBgByte i v)) := by
  unfold State.write8 at h
  cases hr : s.rst <;> simp only [hr, if_true, Bool.false_eq_true, if_false] at h
  · exact ⟨rfl, State.storeByte_cases h⟩
  · cases h

/-- Everything a WR32 that is no busfault can do, but for the issue of a command. -/
theorem State.write32_cases {s t : State} {a : Half} {v : Word} (h : s.write32 a v = some t) :
    s.rst = false ∧ a.toNat % 4 = 0 ∧
    ((a = regOffset .ctrl ∧ t = s.setIe (v.getLsbD 0)) ∨
     (s.busy = false ∧ a = regOffset .hexLen ∧ t = s.setHexLen (v.extractLsb' 0 16)) ∨
     (s.busy = false ∧ a = regOffset .bgLen ∧ t = s.setBgLen (v.extractLsb' 0 16)) ∨
     (s.busy = false ∧ ∃ i, i + 3 < s.hexCap ∧ a.toNat = 0x4000 + i ∧ t = s.setHexWord i v) ∨
     (s.busy = false ∧ ∃ i, i + 3 < s.bgCap ∧ a.toNat = 0x8000 + i ∧ t = s.setBgWord i v)) := by
  unfold State.write32 at h
  split at h
  · cases h
  · rename_i hg
    obtain ⟨hr, ha⟩ := not_or.1 hg
    have hr : s.rst = false := by simpa using hr
    have ha : a.toNat % 4 = 0 := by simpa using ha
    refine ⟨hr, ha, ?_⟩
    rcases s.locate_cases a with ⟨r, hreg, hl⟩ | ⟨b, -, hl⟩ | ⟨i, hi, hadr, hl⟩ | ⟨i, hi, hadr, hl⟩ | ⟨i, -, -, hl⟩ | ⟨hl, -⟩ <;>
      rw [hl] at h
    · have hreg : a = regOffset r := BitVec.eq_of_toNat_eq hreg
      dsimp only at h
      cases r <;> simp only [State.writeRegister, Option.some.injEq, reduceCtorEq] at h
      · exact .inl ⟨hreg, h.symm⟩
      · cases hb : s.busy <;> simp only [hb, if_true, Bool.false_eq_true, if_false] at h
        · exact .inr (.inl ⟨rfl, hreg, (Option.some.inj h).symm⟩)
        · cases h
      · cases hb : s.busy <;> simp only [hb, if_true, Bool.false_eq_true, if_false] at h
        · exact .inr (.inr (.inl ⟨rfl, hreg, (Option.some.inj h).symm⟩))
        · cases h
    · rw [State.storeWord_none v (by simp [State.storeByte, hl])] at h
      cases h
    · have hfit : i + 3 < s.hexCap := by
        have := s.hexCap_mod
        omega
      cases hb : s.busy
      · rw [State.storeWord_hex v hb hadr hfit] at h
        exact .inr (.inr (.inr (.inl ⟨rfl, i, hfit, hadr, (Option.some.inj h).symm⟩)))
      · rw [State.storeWord_none v (by simp [State.storeByte, hl, hb])] at h
        cases h
    · have hfit : i + 3 < s.bgCap := by
        have := s.hexCap_mod
        have := s.bgCap_four
        omega
      cases hb : s.busy
      · rw [State.storeWord_bg v hb hadr hfit] at h
        exact .inr (.inr (.inr (.inr ⟨rfl, i, hfit, hadr, (Option.some.inj h).symm⟩)))
      · rw [State.storeWord_none v (by simp [State.storeByte, hl, hb])] at h
        cases h
    · rw [State.storeWord_none v (by simp [State.storeByte, hl])] at h
      cases h
    · rw [State.storeWord_none v (by simp [State.storeByte, hl])] at h
      cases h

/-! ### Answers -/

/-- The answer to an RD8 changes nothing but the port's answer. -/
theorem State.answerRead8_eq (s : State) (o : Option Byte) : ∃ r, s.answerRead8 o = s.respond r := by
  cases o <;> exact ⟨_, rfl⟩

/-- The answer to an RD32 changes nothing but the port's answer. -/
theorem State.answerRead32_eq (s : State) (o : Option Word) : ∃ r, s.answerRead32 o = s.respond r := by
  cases o <;> exact ⟨_, rfl⟩

end Sys2Proof.Machine
end

