-- ==== Sys2Proof/Laws/Command.lean ====
section
/-! SUPPORT. What the issue of a command and the engine's turn can do, said once; and what an outcome can be. -/

namespace Sys2Proof.Machine

/-! ### Issue -/

/-- A command written while the port is closed to commands (R211, R216). -/
theorem State.onCommandWrite_closed {s : State} (effect : State → State) (h : s.busy = true ∨ s.rst = true) :
    s.onCommandWrite effect = .next (s.respond .busfaultWrite) := by
  rw [State.onCommandWrite, if_pos h]

/-- A command written while the port is open to commands (R160). -/
theorem State.onCommandWrite_open {s : State} (effect : State → State) (hb : s.busy = false) (hr : s.rst = false) :
    s.onCommandWrite effect = .next ((effect s).respond .ack) := by
  rw [State.onCommandWrite, if_neg (by simp [hb, hr])]

/-- Everything a command write can do. -/
theorem State.onCommandWrite_cases {s t : State} {effect : State → State} (h : s.onCommandWrite effect = .next t) :
    ((s.busy = true ∨ s.rst = true) ∧ t = s.respond .busfaultWrite) ∨
    (s.busy = false ∧ s.rst = false ∧ t = (effect s).respond .ack) := by
  by_cases hc : s.busy = true ∨ s.rst = true
  · rw [State.onCommandWrite_closed effect hc] at h
    exact .inl ⟨hc, by cases h; rfl⟩
  · have hb : s.busy = false := by simpa using fun hb => hc (.inl hb)
    have hr : s.rst = false := by simpa using fun hr => hc (.inr hr)
    rw [State.onCommandWrite_open effect hb hr] at h
    exact .inr ⟨hb, hr, by cases h; rfl⟩

theorem State.onCommandWrite_next (s : State) (effect : State → State) : ∃ t, s.onCommandWrite effect = .next t := by
  by_cases hc : s.busy = true ∨ s.rst = true
  · exact ⟨_, State.onCommandWrite_closed effect hc⟩
  · exact ⟨_, by rw [State.onCommandWrite, if_neg hc]⟩

/-! ### Outcomes -/

@[simp] theorem State.hexBytes_length (s : State) (n : Nat) : (s.hexBytes n).length = n := by simp [State.hexBytes]
@[simp] theorem State.bgBytes_length (s : State) (n : Nat) : (s.bgBytes n).length = n := by simp [State.bgBytes]
@[simp] theorem State.outBytes_length (s : State) (n : Nat) : (s.outBytes n).length = n := by simp [State.outBytes]

theorem State.hexBytes_getElem? (s : State) {n i : Nat} (h : i < n) : (s.hexBytes n)[i]? = some (s.hexByte i) := by
  simp [State.hexBytes, h]

theorem State.bgBytes_getElem? (s : State) {n i : Nat} (h : i < n) : (s.bgBytes n)[i]? = some (s.bgByte i) := by
  simp [State.bgBytes, h]

/-- What an outcome of DECODE or BLEND can be on this core (R161): at most OUT_CAP output bytes, or an error
that is no IllegalCommand, whose position is 0 unless the error is InvalidDigit, and below HEX_CAP. -/
def OutcomeLegal (s : State) : CommandOutcome → Prop
  | .ok out => out.length ≤ s.outCap
  | .err kind pos => kind ≠ .illegalCommand ∧ (kind ≠ .invalidDigit → pos = 0#16) ∧ pos.toNat < s.hexCap

theorem State.position_legal {s : State} {n i : Nat} (hn : n ≤ s.hexCap) (hi : i < n) :
    (BitVec.ofNat 16 i).toNat < s.hexCap := by
  have := s.hexCap_bounds
  rw [BitVec.toNat_ofNat, Nat.mod_eq_of_lt (by omega)]
  omega

theorem State.decodeOutcome_legal (s : State) : OutcomeLegal s s.decodeOutcome := by
  have hc := s.hexCap_bounds
  unfold State.decodeOutcome
  split
  · exact ⟨by simp, by simp, by simp; omega⟩
  · rename_i hcap
    rcases decodeFn_cases (s.hexBytes s.hexLen.toNat) with ⟨-, h⟩ | ⟨-, i, hs, h⟩ | ⟨-, vs, hs, h⟩ <;> rw [h]
    · exact ⟨by simp, by simp, by simp; omega⟩
    · have hi := scanDigits_error_lt hs
      rw [State.hexBytes_length] at hi
      exact ⟨by simp, by simp, State.position_legal (not_lt.1 hcap) (by omega)⟩
    · have := s.outCap_two
      have hl := scanDigits_length hs
      rw [State.hexBytes_length] at hl
      simp only [OutcomeLegal, packPairs_length, hl]
      omega

theorem State.blendOutcome_legal (s : State) : OutcomeLegal s s.blendOutcome := by
  have hc := s.hexCap_bounds
  unfold State.blendOutcome
  split
  · exact ⟨by simp, by simp, by simp; omega⟩
  · rename_i hcap
    rcases blendFn_cases (s.hexBytes s.hexLen.toNat) (s.bgBytes s.bgLen.toNat) with
      ⟨-, h⟩ | ⟨he, i, hs, h⟩ | ⟨he, vs, hs, h⟩ <;> rw [h]
    · exact ⟨by simp, by simp, by simp; omega⟩
    · have hi := scanDigits_error_lt hs
      rw [State.hexBytes_length] at hi
      exact ⟨by simp, by simp, State.position_legal (n := s.hexLen.toNat) (by omega) (by omega)⟩
    · have := s.outCap_two
      have hl := scanDigits_length hs
      rw [State.hexBytes_length, State.bgBytes_length] at *
      simp only [OutcomeLegal]
      rw [blendGroups_length (by simpa [hl] using he), State.bgBytes_length]
      omega

/-- Every outcome the engine can commit is legal. -/
theorem State.pendingOutcome_legal {s : State} {r : CommandOutcome} (h : s.pendingOutcome = some r) :
    OutcomeLegal s r := by
  unfold State.pendingOutcome at h
  split at h
  · cases h
  · cases h
    exact s.decodeOutcome_legal
  · cases h
    exact s.blendOutcome_legal

theorem State.pendingOutcome_eq_none {s : State} : s.pendingOutcome = none ↔ s.pendingOp = .none := by
  unfold State.pendingOutcome
  cases s.pendingOp <;> simp

/-! ### The engine's turn -/

/-- Everything the engine's turn can do (R165, R166). -/
theorem State.engineTurn_cases (s : State) :
    ((s.rst = true ∨ s.pendingOp = .none) ∧ s.engineTurn = s) ∨
    (s.rst = false ∧ s.pendingOp ≠ .none ∧ ∃ r, s.pendingOutcome = some r ∧ s.engineTurn = s.commit r) := by
  unfold State.engineTurn
  cases hr : s.rst
  · cases ho : s.pendingOutcome with
    | none => exact .inl ⟨.inr (State.pendingOutcome_eq_none.1 ho), rfl⟩
    | some r =>
      refine .inr ⟨rfl, fun h => ?_, r, rfl, rfl⟩
      rw [State.pendingOutcome_eq_none.2 h] at ho
      cases ho
  · exact .inl ⟨.inl rfl, rfl⟩

/-- What no commit changes (R166). -/
theorem State.commit_frame (s : State) (r : CommandOutcome) :
    (s.commit r).ie = s.ie ∧ (s.commit r).hexLen = s.hexLen ∧ (s.commit r).bgLen = s.bgLen ∧
    (s.commit r).hexMem = s.hexMem ∧ (s.commit r).bgMem = s.bgMem ∧ (s.commit r).capBlocks = s.capBlocks ∧
    (s.commit r).rst = s.rst ∧ (s.commit r).response = s.response ∧ (s.commit r).events = s.events ∧
    (s.commit r).busy = false ∧ (s.commit r).pendingOp = .none := by
  cases r <;> simp [State.commit]

theorem State.commit_hexCap (s : State) (r : CommandOutcome) : (s.commit r).hexCap = s.hexCap := by
  cases r <;> rfl

end Sys2Proof.Machine
end

