-- ==== Sys2Proof/Laws/PerInstr.lean ====
section
/-! SUPPORT. A statement about every command as syntax, one lemma per constructor of `Instr`: the word the
encoder writes passes both checks of WellFormed.lean (spec/30_encoding.md R81, R82), and its OPCODE field is
the one R82 assigns. -/

namespace Sys2Proof.Laws

/-- The encoded word is well-formed and its OPCODE field holds the command's opcode. -/
def EncodedWord.Statement (i : Instr) : Prop :=
  WordWellFormed (encode i) ∧ wordOpcode (encode i) = opcodeOf i

theorem EncodedWord.ack : EncodedWord.Statement .ack := by
  unfold EncodedWord.Statement
  decide

theorem EncodedWord.decode : EncodedWord.Statement .decode := by
  unfold EncodedWord.Statement
  decide

theorem EncodedWord.blend : EncodedWord.Statement .blend := by
  unfold EncodedWord.Statement
  decide

end Sys2Proof.Laws
end

