-- ==== Sys2Proof/Laws/Step.lean ====
section
/-! SUPPORT. What a step can do, said once: `Takes s e t` lists every effect the turn `e` can have on `s`, and
`step_takes` says that a step does nothing else. Every turn answers a next state (`deliver_next`). -/

namespace Sys2Proof.Machine

/-- Everything a turn can do. -/
inductive Takes (s : State) : Event → State → Prop where
  /-- A read, or a busfault: only the port's answer changes. -/
  | answer (t : Txn) (r : Response) : Takes s (.host t) (s.respond r)
  /-- A write of CTRL. -/
  | control (v : Word) (hr : s.rst = false) :
      Takes s (.host (.wr32 (regOffset .ctrl) v)) ((s.setIe (v.getLsbD 0)).respond .ack)
  /-- A write of HEX_LEN. -/
  | hexLength (v : Word) (hr : s.rst = false) (hb : s.busy = false) :
      Takes s (.host (.wr32 (regOffset .hexLen) v)) ((s.setHexLen (v.extractLsb' 0 16)).respond .ack)
  /-- A write of BG_LEN. -/
  | bgLength (v : Word) (hr : s.rst = false) (hb : s.busy = false) :
      Takes s (.host (.wr32 (regOffset .bgLen) v)) ((s.setBgLen (v.extractLsb' 0 16)).respond .ack)
  /-- A WR8 in HEX_MEM. -/
  | hexByte (a : Half) (v : Byte) (i : Nat) (hr : s.rst = false) (hb : s.busy = false) (hi : i < s.hexCap)
      (ha : a.toNat = 0x4000 + i) : Takes s (.host (.wr8 a v)) ((s.setHexByte i v).respond .ack)
  /-- A WR8 in BG_MEM. -/
  | bgByte (a : Half) (v : Byte) (i : Nat) (hr : s.rst = false) (hb : s.busy = false) (hi : i < s.bgCap)
      (ha : a.toNat = 0x8000 + i) : Takes s (.host (.wr8 a v)) ((s.setBgByte i v).respond .ack)
  /-- A WR32 in HEX_MEM. -/
  | hexWord (a : Half) (v : Word) (i : Nat) (hr : s.rst = false) (hb : s.busy = false) (hi : i + 3 < s.hexCap)
      (ha : a.toNat = 0x4000 + i) : Takes s (.host (.wr32 a v)) ((s.setHexWord i v).respond .ack)
  /-- A WR32 in BG_MEM. -/
  | bgWord (a : Half) (v : Word) (i : Nat) (hr : s.rst = false) (hb : s.busy = false) (hi : i + 3 < s.bgCap)
      (ha : a.toNat = 0x8000 + i) : Takes s (.host (.wr32 a v)) ((s.setBgWord i v).respond .ack)
  /-- An ACK. -/
  | ack (w : Word) (hd : decodeCommand w = .ok .ack) (hr : s.rst = false) (hb : s.busy = false) :
      Takes s (.host (.wr32 (regOffset .cmd) w)) (s.clearResult.respond .ack)
  /-- The acceptance of a DECODE. -/
  | decode (w : Word) (hd : decodeCommand w = .ok .decode) (hr : s.rst = false) (hb : s.busy = false) :
      Takes s (.host (.wr32 (regOffset .cmd) w)) ((s.accept .decode).respond .ack)
  /-- The acceptance of a BLEND. -/
  | blend (w : Word) (hd : decodeCommand w = .ok .blend) (hr : s.rst = false) (hb : s.busy = false) :
      Takes s (.host (.wr32 (regOffset .cmd) w)) ((s.accept .blend).respond .ack)
  /-- An illegal command word. -/
  | illegal (w : Word) (e : DecodeError) (hd : decodeCommand w = .error e) (hr : s.rst = false)
      (hb : s.busy = false) :
      Takes s (.host (.wr32 (regOffset .cmd) w)) ((s.enterError .illegalCommand 0#16).respond .ack)
  /-- The engine has no step. -/
  | idle (h : s.rst = true ∨ s.pendingOp = .none) : Takes s .engine s
  /-- The engine's completion step. -/
  | complete (r : CommandOutcome) (hr : s.rst = false) (hp : s.pendingOp ≠ .none)
      (ho : s.pendingOutcome = some r) : Takes s .engine (s.commit r)
  | assertReset : Takes s .assertReset s.assertReset
  | releaseReset : Takes s .releaseReset s.releaseReset
  | powerOn : Takes s .powerOn s.powerOn

theorem issue_takes {s t : State} {w : Word} (h : issue w s = .next t) :
    Takes s (.host (.wr32 (regOffset .cmd) w)) t := by
  unfold issue at h
  split at h
  · rename_i i hd
    cases i <;> rcases State.onCommandWrite_cases h with ⟨-, rfl⟩ | ⟨hb, hr, rfl⟩
    · exact .answer _ _
    · exact .ack w hd hr hb
    · exact .answer _ _
    · exact .decode w hd hr hb
    · exact .answer _ _
    · exact .blend w hd hr hb
  · rename_i e hd
    rcases State.onCommandWrite_cases h with ⟨-, rfl⟩ | ⟨hb, hr, rfl⟩
    · exact .answer _ _
    · exact .illegal w e hd hr hb

theorem transact_takes {s t : State} {x : Txn} (h : transact x s = .next t) : Takes s (.host x) t := by
  cases x with
  | rd8 a =>
    obtain ⟨r, hr⟩ := s.answerRead8_eq (s.read8 a)
    rw [transact, hr] at h
    cases h
    exact .answer _ _
  | rd32 a =>
    obtain ⟨r, hr⟩ := s.answerRead32_eq (s.read32 a)
    rw [transact, hr] at h
    cases h
    exact .answer _ _
  | wr8 a v =>
    rw [transact] at h
    cases hw : s.write8 a v with
    | none =>
      rw [hw] at h
      cases h
      exact .answer _ _
    | some u =>
      rw [hw] at h
      cases h
      obtain ⟨hr, hb, ⟨i, hi, ha, rfl⟩ | ⟨i, hi, ha, rfl⟩⟩ := State.write8_cases hw
      · exact .hexByte a v i hr hb hi ha
      · exact .bgByte a v i hr hb hi ha
  | wr32 a v =>
    rw [transact] at h
    split at h
    · subst_vars
      exact issue_takes h
    · cases hw : s.write32 a v with
      | none =>
        rw [hw] at h
        cases h
        exact .answer _ _
      | some u =>
        rw [hw] at h
        cases h
        obtain ⟨hr, -, ⟨rfl, rfl⟩ | ⟨hb, rfl, rfl⟩ | ⟨hb, rfl, rfl⟩ | ⟨hb, i, hi, ha, rfl⟩ | ⟨hb, i, hi, ha, rfl⟩⟩ :=
          State.write32_cases hw
        · exact .control v hr
        · exact .hexLength v hr hb
        · exact .bgLength v hr hb
        · exact .hexWord a v i hr hb hi ha
        · exact .bgWord a v i hr hb hi ha

theorem engineTurn_takes (s : State) : Takes s .engine s.engineTurn := by
  rcases s.engineTurn_cases with ⟨h, he⟩ | ⟨hr, hp, r, ho, he⟩ <;> rw [he]
  · exact .idle h
  · exact .complete r hr hp ho

theorem deliver_takes {s t : State} {e : Event} (h : deliver e s = .next t) : Takes s e t := by
  cases e with
  | host x => exact transact_takes h
  | engine =>
    cases h
    exact engineTurn_takes s
  | assertReset =>
    cases h
    exact .assertReset
  | releaseReset =>
    cases h
    exact .releaseReset
  | powerOn =>
    cases h
    exact .powerOn

/-- Everything a step can do: the next turn of the list, or the engine's turn where the list is empty. -/
theorem step_takes {s t : State} (h : step s = .next t) :
    (s.events = [] ∧ Takes s .engine t) ∨ ∃ e es, s.events = e :: es ∧ Takes (s.withEvents es) e t := by
  unfold step advance at h
  cases he : s.events with
  | nil =>
    rw [he] at h
    cases h
    exact .inl ⟨rfl, engineTurn_takes s⟩
  | cons e es =>
    rw [he] at h
    exact .inr ⟨e, es, rfl, deliver_takes h⟩

theorem issue_next (w : Word) (s : State) : ∃ t, issue w s = .next t := by
  unfold issue
  split
  · rename_i i _
    cases i <;> exact State.onCommandWrite_next s _
  · exact State.onCommandWrite_next s _

theorem deliver_next (e : Event) (s : State) : ∃ t, deliver e s = .next t := by
  cases e with
  | host x =>
    cases x with
    | wr32 a v =>
      unfold deliver transact
      dsimp only
      split
      · exact issue_next v s
      · exact ⟨_, rfl⟩
    | _ => exact ⟨_, rfl⟩
  | _ => exact ⟨_, rfl⟩

end Sys2Proof.Machine
end

