-- ==== Sys2Proof/Laws/Run.lean ====
section
/-! SUPPORT. Runs: one step unfolded, and what each window answers to RD8. -/

namespace Sys2Proof.Machine

/-- A run of one more step, where the first answers a next state. -/
theorem run_of_step (M : Host.Core) {n : Nat} {s t : M.State} (h : M.step s = .next t) : M.run (n + 1) s = M.run n t := by
  rw [Host.Core.run, h]

/-- The same for this machine, in terms of `step`. -/
theorem core_run_of_step {n : Nat} {s t : State} (h : step s = .next t) :
    Host.Core.run Sys2Proof.core (n + 1) s = Host.Core.run Sys2Proof.core n t :=
  run_of_step Sys2Proof.core h

theorem State.read8_open {s : State} (a : Half) (hr : s.rst = false) : s.read8 a = s.byteAt a := by
  rw [State.read8, if_neg (by simp [hr])]

theorem State.write8_open {s : State} (a : Half) (v : Byte) (hr : s.rst = false) : s.write8 a v = s.storeByte a v := by
  rw [State.write8, if_neg (by simp [hr])]

theorem State.byteAt_rom (s : State) {a : Half} {b : Byte} (h : a.toNat = 0x0100 + b.toNat) :
    s.byteAt a = some ((rom b).zeroExtend 8) := by
  simp only [State.byteAt, s.locate_rom h]

theorem State.byteAt_hex (s : State) {a : Half} {i : Nat} (h : a.toNat = 0x4000 + i) (hi : i < s.hexCap) :
    s.byteAt a = some (s.hexByte i) := by
  simp only [State.byteAt, s.locate_hex h hi]

theorem State.byteAt_bg (s : State) {a : Half} {i : Nat} (h : a.toNat = 0x8000 + i) (hi : i < s.bgCap) :
    s.byteAt a = some (s.bgByte i) := by
  simp only [State.byteAt, s.locate_bg h hi]

theorem State.byteAt_out {s : State} {a : Half} {i : Nat} (hb : s.busy = false) (h : a.toNat = 0xC000 + i)
    (hi : i < s.outCap) : s.byteAt a = some (s.outByte i) := by
  simp [State.byteAt, s.locate_out h hi, hb]

/-- The events of a state are changed by no turn but by the step that takes it off the list. -/
theorem Takes.events_eq {s t : State} {e : Event} (h : Takes s e t) : t.events = s.events := by
  cases h <;> simp [State.setHexWord, State.setBgWord, (State.commit_frame _ _).2.2.2.2.2.2.2.2.1]

end Sys2Proof.Machine
end

