-- ==== Sys2Proof/Tests/Slice0.lean ====
section
/-! SUPPORT. Tests of the model. Expected results are written out from the encodings of spec/30_encoding.md
and the vectors of spec/95_test_vectors.md (the section is named at each test), never from the model's own
answers. After them, one witness for each statement of Certificates/Slice0/Obligations.lean that has
hypotheses: a concrete state and operands that meet them, at the boundaries where its clauses meet. -/

namespace Sys2Proof.Tests

open Sys2Proof.Machine

/-! ### States to test on -/

/-- The reset state of a core with HEX_CAP = 16, the capacity of 95_test_vectors.md part 3. -/
def core16 : State := { State.reset with capBlocks := 0 }

/-- `core16` with characters in HEX_MEM, background bytes in BG_MEM, and both lengths to match. -/
def loaded (cs bs : List Byte) : State :=
  { core16 with hexMem := Buffer.writeFrom ⟨[], 0⟩ 0 cs, hexLen := BitVec.ofNat 16 cs.length,
                bgMem := Buffer.writeFrom ⟨[], 0⟩ 0 bs, bgLen := BitVec.ofNat 16 bs.length }

/-- The state after one turn. -/
def after (e : Event) (s : State) : State :=
  match deliver e s with
  | .next t => t
  | .fault _ => s
  | .refused _ => s

/-- The state after a command word and the engine's completion step. -/
def ran (w : Word) (s : State) : State := after .engine (after (.host (.wr32 0x010#16 w)) s)

/-- "1e", "1f2f", "12zz" (R101). -/
def text1e : List Byte := [0x31#8, 0x65#8]
def text1f2f : List Byte := [0x31#8, 0x66#8, 0x32#8, 0x66#8]
def text12zz : List Byte := [0x31#8, 0x32#8, 0x7A#8, 0x7A#8]

/-! ### Words (30_encoding.md R81, R82) -/

theorem test_mbz_word_is_ill_formed : ¬MbzClear 0x00000101#32 ∧ ¬WordWellFormed 0x00000101#32 := by decide

theorem test_reserved_opcode_is_ill_formed : ¬OpcodeAssigned 0x00000003#32 ∧ ¬WordWellFormed 0x000000FF#32 := by
  decide

theorem test_ack_word_decodes :
    decodeCommand 0b00000000000000000000000000000000#32 = .ok .ack ∧ encode .ack = 0x00000000#32 := ⟨rfl, rfl⟩

theorem test_decode_word_decodes :
    decodeCommand 0b00000000000000000000000000000001#32 = .ok .decode ∧ encode .decode = 0x00000001#32 := ⟨rfl, rfl⟩

theorem test_blend_word_decodes :
    decodeCommand 0b00000000000000000000000000000010#32 = .ok .blend ∧ encode .blend = 0x00000002#32 := ⟨rfl, rfl⟩

theorem test_illegal_words_are_named :
    decodeCommand 0x00000003#32 = .error (.reservedOpcode 0x03#8) ∧ decodeCommand 0x00000100#32 = .error .mustBeZero ∧
    decodeCommand 0x80000002#32 = .error .mustBeZero := ⟨rfl, rfl, rfl⟩

/-! ### Data paths (95_test_vectors.md 2.1 to 2.4) -/

theorem test_rom_edges :
    [0x2F#8, 0x30#8, 0x39#8, 0x3A#8, 0x40#8, 0x41#8, 0x46#8, 0x47#8, 0x60#8, 0x61#8, 0x66#8, 0x67#8, 0xB0#8].map rom =
    [0x00#5, 0x10#5, 0x19#5, 0x00#5, 0x00#5, 0x1A#5, 0x1F#5, 0x00#5, 0x00#5, 0x1A#5, 0x1F#5, 0x00#5, 0x00#5] := by
  decide

theorem test_lane_alpha_sweep :
    (List.range 16).map (fun a => (blendLane 0 15 (BitVec.ofNat 4 a)).toNat) =
      [0, 0, 1, 2, 3, 4, 5, 6, 7, 8, 9, 10, 11, 12, 13, 14] ∧
    (List.range 16).map (fun a => (blendLane 5 10 (BitVec.ofNat 4 a)).toNat) =
      [4, 5, 5, 5, 5, 6, 6, 6, 7, 7, 7, 8, 8, 8, 9, 9] := by decide

theorem test_lane_background_sweep :
    (List.range 16).map (fun o => (blendLane (BitVec.ofNat 4 o) 15 7).toNat) =
      [6, 7, 7, 8, 8, 9, 9, 10, 10, 11, 11, 12, 12, 13, 13, 14] := by decide

/-! ### Commands (95_test_vectors.md 2.2, 2.4 to 2.6) -/

theorem test_ack_keeps_out_len :
    (after (.host (.wr32 0x010#16 0#32)) { core16 with done := true, outLen := 1#16 }).statusWord = 0#32 ∧
    (after (.host (.wr32 0x010#16 0#32)) { core16 with done := true, outLen := 1#16 }).outLen = 1#16 := by decide

theorem test_decode_1e :
    (ran 1#32 (loaded text1e [])).outByte 0 = 0xE1#8 ∧ (ran 1#32 (loaded text1e [])).statusWord = 0x002#32 ∧
    (ran 1#32 (loaded text1e [])).outLen = 1#16 := by decide

theorem test_decode_12zz :
    (ran 1#32 (loaded text12zz [])).statusWord = 0x204#32 ∧ (ran 1#32 (loaded text12zz [])).errPos = 2#16 ∧
    (ran 1#32 (loaded text12zz [])).outMem = core16.outMem := by decide

theorem test_blend_1f2f :
    (ran 2#32 (loaded text1f2f [0x00#8])).outByte 0 = 0x10#8 ∧
    (ran 2#32 (loaded text1f2f [0x00#8])).statusWord = 0x002#32 := by decide

theorem test_blend_empty_on_one_byte : (ran 2#32 (loaded [] [0xFF#8])).statusWord = 0x104#32 := by decide

theorem test_illegal_word : (after (.host (.wr32 0x010#16 3#32)) core16).statusWord = 0x404#32 := by decide

/-! ### The host port and reset (95_test_vectors.md 2.1, 2.7, 2.8) -/

theorem test_rom_word : (after (.host (.rd32 0x0144#16)) core16).response = .data32 0x001F1E1D#32 := by decide

theorem test_word_write_order :
    (after (.host (.rd8 0x4001#16)) (after (.host (.wr32 0x4000#16 0x66326631#32)) core16)).response = .data8 0x66#8 := by
  decide

theorem test_window_ends :
    (after (.host (.wr8 0x400F#16 0x41#8)) core16).response = .ack ∧
    (after (.host (.wr8 0x4010#16 0x41#8)) core16).response = .busfaultWrite ∧
    (after (.host (.wr8 0x8003#16 0x5A#8)) core16).response = .ack ∧
    (after (.host (.wr8 0x8004#16 0x5A#8)) core16).response = .busfaultWrite ∧
    (after (.host (.rd8 0xC008#16)) core16).response = .busfaultRead 0#32 := by decide

theorem test_reset_keeps_the_buffers :
    (after .assertReset { loaded text1e [0x5A#8] with done := true, ie := true, outLen := 3#16 }).statusWord = 0#32 ∧
    (after .assertReset { loaded text1e [0x5A#8] with done := true, ie := true, outLen := 3#16 }).hexLen = 0#16 ∧
    (after .assertReset (loaded text1e [0x5A#8])).hexMem = (loaded text1e [0x5A#8]).hexMem := by decide

/-! ### Witnesses -/

/-- `core16` takes commands. -/
theorem core16_takesCommands : core16.TakesCommands := ⟨rfl, rfl⟩

/-- A core in the middle of a DECODE of "1e". -/
def busy16 : State := (loaded text1e []).accept .decode

/-- HEX_CAP = 16, so the lengths 16 and 17 stand on the two sides of it, BG_CAP = 4, OUT_CAP = 8. -/
theorem core16_capacities : core16.hexCap = 16 ∧ core16.bgCap = 4 ∧ core16.outCap = 8 := by decide

/-- Sixteen '0'. -/
def zeros16 : List Byte := List.replicate 16 0x30#8

theorem witness_DecodeEncodeAgree : decodeCommand 2#32 = .ok .blend := rfl

theorem witness_CommandWordDecodeIsTotal :
    (3#32 : Word) ≠ 0#32 ∧ (3#32 : Word) ≠ 1#32 ∧ (3#32 : Word) ≠ 2#32 := by decide

theorem witness_IllegalWordsAreRecordedNotFaulted :
    core16.TakesCommands ∧ (∃ e, decodeCommand 3#32 = .error e) ∧ ∃ e, decodeCommand 0x80000000#32 = .error e :=
  ⟨core16_takesCommands, ⟨_, rfl⟩, ⟨_, rfl⟩⟩

theorem witness_LookupReadsTheRom :
    (rom 0x39#8).getLsbD 4 = true ∧ (rom 0x3A#8).getLsbD 4 = false ∧ (0x80#8 : Byte).getLsbD 7 = true := by decide

theorem witness_RomHoldsTheTable : (rom 0x2F#8).getLsbD 4 = false := by decide

theorem witness_DecodeFnFollowsTheRule :
    [0x66#8].length % 2 = 1 ∧ text12zz.length % 2 = 0 ∧ text12zz[2]? = some 0x7A#8 ∧ lookup 0x7A#8 = none ∧
    (∀ j < 2, ∀ d, text12zz[j]? = some d → lookup d ≠ none) ∧
    text1e.length % 2 = 0 ∧ (∀ c ∈ text1e, lookup c ≠ none) ∧ text1e[2 * 0]? = some 0x31#8 ∧
    text1e[2 * 0 + 1]? = some 0x65#8 ∧ lookup 0x31#8 = some 1#4 ∧ lookup 0x65#8 = some 14#4 := by
  refine ⟨by decide, by decide, by decide, by decide, fun j hj d hd => ?_, by decide, by decide, by decide, by decide,
    by decide, by decide⟩
  match j, hj with
  | 0, _ => cases hd; decide
  | 1, _ => cases hd; decide

theorem witness_FirstCharacterIsTheLowNibble : lookup 0x31#8 = some 1#4 ∧ lookup 0x65#8 = some 14#4 := by decide

theorem witness_HexRoundTrip :
    ∀ v : Nibble, lookup (if v.toNat < 10 then 0x30#8 + v.zeroExtend 8 else 0x57#8 + v.zeroExtend 8) = some v := by
  decide

theorem witness_BlendLaneLaws : (3#4 : Nibble).toNat ≤ (3#4 : Nibble).toNat ∧ (0#4 : Nibble).toNat ≤ (15#4 : Nibble).toNat := by
  decide

/-- Lengths 2 with any, 0 with 1, and 4 with 1; "12zz" and "1f2f". -/
theorem witness_BlendFnFollowsTheRule :
    text1e.length % 4 ≠ 0 ∧ ([] : List Byte).length = 0 ∧ 0 < [0xFF#8].length ∧ [0x00#8].length * 4 = text12zz.length ∧
    text12zz[2]? = some 0x7A#8 ∧ lookup 0x7A#8 = none ∧
    (∀ j < 2, ∀ d, text12zz[j]? = some d → lookup d ≠ none) ∧
    [0x00#8].length * 4 = text1f2f.length ∧ (∀ c ∈ text1f2f, lookup c ≠ none) ∧
    text1f2f.map lookup = [some 1#4, some 15#4, some 2#4, some 15#4] :=
  ⟨by decide, rfl, by decide, by decide, by decide, by decide, witness_DecodeFnFollowsTheRule.2.2.2.2.1, by decide,
    by decide, by decide⟩

theorem witness_OutputLengthsFollowTheInputs :
    decodeFn text1e = .ok [0xE1#8] ∧ blendFn text1f2f [0x00#8] = .ok [0x10#8] := by decide

theorem witness_BlendByteDependsOnItsGroupOnly :
    blendFn text1f2f [0x00#8] = .ok [0x10#8] ∧
    blendFn (text1f2f ++ [0x30#8, 0x30#8, 0x30#8, 0x30#8]) [0x00#8, 0xFF#8] = .ok [0x10#8, 0xEE#8] ∧
    (∀ j < 4, text1f2f[4 * 0 + j]? = (text1f2f ++ [0x30#8, 0x30#8, 0x30#8, 0x30#8])[4 * 0 + j]?) ∧
    [0x00#8][0]? = [0x00#8, 0xFF#8][0]? := by decide

theorem witness_AckClearsTheResult : { core16 with done := true }.TakesCommands := by decide

theorem witness_AcceptanceStartsTheCommand : { core16 with err := true, errCode := 2#4 }.TakesCommands := by decide

theorem witness_IllegalCommandIsRecordedAtOnce :
    core16.TakesCommands ∧ decodeCommand 0x00000101#32 = .error .mustBeZero := ⟨core16_takesCommands, rfl⟩

theorem witness_CommandsAreTurnedAwayWhileBusy : busy16.busy = true ∧ core16.assertReset.rst = true := by decide

/-- The lengths 17, 15, 4 and 16 with HEX_CAP = 16. -/
theorem witness_DecodeRunsToItsResult :
    { core16 with hexLen := 17#16 }.TakesCommands ∧
    { core16 with hexLen := 17#16 }.hexLen.toNat > { core16 with hexLen := 17#16 }.hexCap ∧
    { core16 with hexLen := 15#16 }.hexLen.toNat ≤ { core16 with hexLen := 15#16 }.hexCap ∧
    { core16 with hexLen := 15#16 }.hexLen.toNat % 2 = 1 ∧
    (loaded text12zz []).TakesCommands ∧ lookup ((loaded text12zz []).hexByte 2) = none ∧
    (∀ j < 2, lookup ((loaded text12zz []).hexByte j) ≠ none) ∧
    (loaded zeros16 []).TakesCommands ∧ (loaded zeros16 []).hexLen.toNat = (loaded zeros16 []).hexCap ∧
    ∀ i < 16, lookup ((loaded zeros16 []).hexByte i) = some 0#4 := by decide

/-- The lengths 17 with 0, 0 with 5, 2 with 0, 0 with 1, 4 with 1 and 16 with 4, HEX_CAP = 16, BG_CAP = 4. -/
theorem witness_BlendRunsToItsResult :
    { core16 with hexLen := 17#16 }.TakesCommands ∧
    { core16 with hexLen := 17#16 }.hexLen.toNat > { core16 with hexLen := 17#16 }.hexCap ∧
    { core16 with bgLen := 5#16 }.bgLen.toNat > { core16 with bgLen := 5#16 }.bgCap ∧
    { core16 with hexLen := 2#16 }.hexLen.toNat % 4 ≠ 0 ∧
    { core16 with bgLen := 1#16 }.bgLen.toNat * 4 ≠ { core16 with bgLen := 1#16 }.hexLen.toNat ∧
    (loaded text12zz [0x00#8]).bgLen.toNat * 4 = (loaded text12zz [0x00#8]).hexLen.toNat ∧
    lookup ((loaded text12zz [0x00#8]).hexByte 2) = none ∧
    (∀ j < 2, lookup ((loaded text12zz [0x00#8]).hexByte j) ≠ none) ∧
    (loaded zeros16 [1#8, 2#8, 3#8, 4#8]).TakesCommands ∧
    (loaded zeros16 [1#8, 2#8, 3#8, 4#8]).bgLen.toNat * 4 = (loaded zeros16 [1#8, 2#8, 3#8, 4#8]).hexLen.toNat ∧
    ∀ i < 16, lookup ((loaded zeros16 [1#8, 2#8, 3#8, 4#8]).hexByte i) = some 0#4 := by decide

/-- The clauses of the order of the checks have the hypotheses of the two commands' clauses. -/
theorem witness_ChecksRunInOrder :
    (loaded [] []).hexLen.toNat = 0 ∧ (loaded [] []).bgLen.toNat = 0 ∧
    { core16 with hexLen := 17#16 }.hexLen.toNat > { core16 with hexLen := 17#16 }.hexCap ∧
    (2 < (loaded text12zz [0x00#8]).hexLen.toNat ∧
      (loaded text12zz [0x00#8]).hexLen.toNat ≤ (loaded text12zz [0x00#8]).hexCap ∧
      lookup ((loaded text12zz [0x00#8]).hexByte 2) = none ∧
      ∀ j < 2, lookup ((loaded text12zz [0x00#8]).hexByte j) ≠ none) ∧
    ∀ i < (loaded text1f2f [0x00#8]).hexLen.toNat, lookup ((loaded text1f2f [0x00#8]).hexByte i) ≠ none := by decide

theorem witness_EngineCommitsTheOutcome :
    busy16.rst = false ∧ busy16.pendingOp = .decode ∧ busy16.decodeOutcome = .ok [0xE1#8] ∧
    ((loaded text1e []).accept .blend).pendingOp = .blend ∧
    ((loaded text1e []).accept .blend).blendOutcome = .err .malformedLength 0#16 := by decide

theorem witness_OutcomeDependsOnItsInputsOnly :
    busy16.pendingOp = { busy16 with done := true, bgLen := 3#16 }.pendingOp ∧
    (∀ i < busy16.hexLen.toNat, busy16.hexByte i = (busy16.setHexByte 2 0x7A#8).hexByte i) ∧
    ((loaded text1f2f [0x00#8]).accept .blend).pendingOp = .blend ∧
    ∀ g < ((loaded text1f2f [0x00#8]).accept .blend).bgLen.toNat,
      ((loaded text1f2f [0x00#8]).accept .blend).bgByte g =
        (((loaded text1f2f [0x00#8]).accept .blend).setBgByte 1 0xFF#8).bgByte g := by decide

theorem witness_InputsAreFixedWhileBusy :
    busy16.busy = true ∧
    ∀ e ∈ [Event.host (.wr8 0x4000#16 0x7A#8), .host (.wr32 0x01C#16 0#32), .host (.rd32 0x014#16)],
      e.isHostTurn = true := by decide

theorem witness_ResultIsStableUntilTheNextCommand :
    (ran 1#32 (loaded text1e [])).busy = false ∧ (ran 1#32 (loaded text1e [])).PendingWhileBusy ∧
    ∀ e ∈ [Event.host (.wr8 0x4000#16 0x7A#8), .engine, .host (.rd8 0xC000#16)],
      e.isAgentTurn = true ∧ e.writesRegister .cmd = false := by decide

theorem witness_EveryCommandEnds :
    (busy16.withEvents [.host (.rd32 0x014#16)]).rst = false ∧
    (busy16.withEvents [.host (.rd32 0x014#16)]).PendingWhileBusy ∧
    ∀ e ∈ (busy16.withEvents [.host (.rd32 0x014#16)]).events, e.isAgentTurn = true := by decide

theorem witness_ErrorEntryExposesNoOutput :
    ∃ t, step (core16.withEvents [.host (.wr32 0x010#16 3#32)]) = .next t ∧
      (core16.withEvents [.host (.wr32 0x010#16 3#32)]).err = false ∧ t.err = true := ⟨_, rfl, rfl, rfl⟩

theorem witness_IrqRisesWithAPostedResult :
    busy16.rst = false ∧ busy16.pendingOp ≠ .none ∧ (1#32 : Word).getLsbD 0 = true ∧
    ∃ t, step ({ core16 with done := true }.withEvents [.host (.wr32 0x00C#16 1#32)]) = .next t ∧
      ({ core16 with done := true }.withEvents [.host (.wr32 0x00C#16 1#32)]).irq = false ∧ t.irq = true :=
  ⟨rfl, by decide, by decide, _, rfl, rfl, rfl⟩

theorem witness_IrqFallsOnlyWhenCleared :
    { core16 with done := true, ie := true }.TakesCommands ∧ (0xFFFFFFFE#32 : Word).getLsbD 0 = false ∧
    ∃ t, step ({ core16 with done := true, ie := true }.withEvents [.host (.wr32 0x00C#16 0xFFFFFFFE#32)]) = .next t ∧
      { core16 with done := true, ie := true }.irq = true ∧ t.irq = false :=
  ⟨by decide, by decide, _, rfl, rfl, rfl⟩

theorem witness_OnlyCommandsChangeTheFlags :
    (∃ t, step busy16 = .next t ∧ t.statusWord ≠ busy16.statusWord) ∧
    ∃ t, step ({ core16 with done := true }.withEvents [.host (.wr32 0x010#16 0#32)]) = .next t ∧ t.done = false ∧
      t.err = false := ⟨⟨_, rfl, by decide⟩, _, rfl, rfl, rfl⟩

/-- One transaction for each case of R57 and for R211, at the edges, and neighbours that are none. -/
theorem witness_BusfaultsExactlyAsListed :
    (Txn.rd32 0x014#16).Busfaults core16.assertReset ∧ (Txn.wr32 0x000#16 0#32).WrongDirection ∧
    (Txn.rd32 0x010#16).WrongDirection ∧
    (Txn.rd32 0x028#16).Unassigned ∧ (Txn.rd8 0x0200#16).Unassigned ∧ (Txn.rd8 0xFFFF#16).Unassigned ∧
    (Txn.rd32 0x4002#16).Misaligned ∧ (Txn.rd8 0x014#16).NarrowOnRegister ∧
    (Txn.wr8 0x4010#16 0#8).BeyondCapacity core16 ∧ (Txn.rd8 0x8004#16).BeyondCapacity core16 ∧
    (Txn.rd8 0xC008#16).BeyondCapacity core16 ∧ (Txn.wr8 0x01FF#16 0#8).WriteToReadOnlyWindow ∧
    (Txn.wr8 0xC000#16 0#8).WriteToReadOnlyWindow ∧ (Txn.rd8 0xC000#16).ForbiddenWhileBusy ∧
    (Txn.wr32 0x010#16 0#32).ForbiddenWhileBusy :=
  ⟨.inl rfl, .inl ⟨rfl, .id, by decide, by decide⟩, .inr ⟨rfl, by decide⟩, by decide, by decide, by decide, by decide,
    by decide, by decide, by decide, by decide, by decide, by decide, by decide, by decide⟩

theorem witness_BusfaultsExactlyAsListed_none :
    ¬(Txn.rd8 0x400F#16).Busfaults core16 ∧ ¬(Txn.rd8 0xC007#16).Busfaults core16 := by
  constructor <;>
    rintro (h | h | h | h | (⟨h, -⟩ | ⟨-, h⟩) | h | h | h) <;> first | cases h; done | (revert h; decide)

theorem witness_ReadsHaveNoSideEffect : (Txn.rd8 0x4000#16).isWrite = false := rfl

theorem witness_IdentificationRegistersRead : core16.rst = false := rfl

theorem witness_FieldRegistersRead : busy16.rst = false := rfl

theorem witness_ReservedBitsIgnoreWritesAndReadZero : busy16.readRegister .status = some 1#32 := by decide

theorem witness_ControlAndLengthWritesStore : core16.rst = false ∧ core16.busy = false ∧ busy16.rst = false := by decide

theorem witness_WordReadsAreLittleEndian :
    (0x4000#16 : Half).toNat % 4 = 0 ∧
    (loaded text1f2f []).read8 0x4000#16 = some 0x31#8 ∧ (loaded text1f2f []).read8 (0x4000#16 + 1) = some 0x66#8 ∧
    (loaded text1f2f []).read8 (0x4000#16 + 2) = some 0x32#8 ∧
    (loaded text1f2f []).read8 (0x4000#16 + 3) = some 0x66#8 := by decide

/-- The last aligned words of the two windows: 12 below 16, and 0 below 4. -/
theorem witness_WordWritesAreLittleEndian :
    core16.TakesCommands ∧ 12 % 4 = 0 ∧ 12 < core16.hexCap ∧ 0 % 4 = 0 ∧ 0 < core16.bgCap := by decide

theorem witness_InputWindowsReadAndWriteBytes :
    core16.rst = false ∧ 15 < core16.hexCap ∧ 3 < core16.bgCap ∧ core16.busy = false ∧ busy16.rst = false := by decide

theorem witness_RomWindowReadsTheRom : core16.rst = false ∧ InRomWindow 0x0100 ∧ InRomWindow 0x01FF := by decide

theorem witness_OutputWindowIsReadOnly :
    core16.rst = false ∧ 7 < core16.outCap ∧ core16.busy = false ∧ 4 < core16.outCap ∧ core16.outCap ≤ 8 ∧
    InOutWindow 0xC000 ∧ InOutWindow 0xDFFF ∧ busy16.busy = true := by decide

theorem witness_BusyInterlock :
    busy16.Inv ∧ busy16.busy = true ∧ (Txn.wr8 0x400F#16 0#8).ForbiddenWhileBusy ∧ 15 < busy16.hexCap ∧
    3 < busy16.bgCap ∧ (Txn.rd32 0x400C#16).isWrite = false ∧ InHexWindow (Txn.rd32 0x400C#16).offset :=
  ⟨⟨by decide, by decide, by decide, by decide, by decide, (fun h => by cases h), by decide⟩, rfl, by decide, by decide,
    by decide, by decide, by decide⟩

theorem witness_ResetSetsTheRegisters : core16.busy = false := rfl

theorem witness_ResetWhileBusyRedrawsTheOutput : busy16.busy = true := rfl

theorem witness_ResetTakesPrecedence : busy16.assertReset.rst = true := rfl

theorem witness_LengthsPersist :
    (∃ t, step (core16.withEvents [.host (.wr32 0x01C#16 4#32)]) = .next t ∧ t.hexLen ≠ core16.hexLen) ∧
    ∃ t, step ((loaded text1f2f [0x00#8]).withEvents [.assertReset]) = .next t ∧
      t.bgLen ≠ (loaded text1f2f [0x00#8]).bgLen := ⟨⟨_, rfl, by decide⟩, ⟨_, rfl, by decide⟩⟩

theorem witness_InputBuffersChangeByHostWritesOnly :
    (∃ t, step (core16.withEvents [.host (.wr8 0x400F#16 0x41#8)]) = .next t ∧ t.hexMem ≠ core16.hexMem) ∧
    ∃ t, step (core16.withEvents [.powerOn]) = .next t ∧ t.bgMem ≠ core16.bgMem :=
  ⟨⟨_, rfl, by decide⟩, ⟨_, rfl, by decide⟩⟩

theorem witness_OutputBufferChangesByCompletionOnly :
    (∃ t, step busy16 = .next t ∧ t.outMem ≠ busy16.outMem) ∧
    (∃ t, step (busy16.withEvents [.assertReset]) = .next t ∧ t.outMem ≠ busy16.outMem) ∧
    ∃ t, step (core16.withEvents [.powerOn]) = .next t ∧ t.outMem ≠ core16.outMem :=
  ⟨⟨_, rfl, by decide⟩, ⟨_, rfl, by decide⟩, ⟨_, rfl, by decide⟩⟩

theorem witness_StaleOutputKeepsItsValues :
    busy16.engineTurn.outLen.toNat ≤ 1 ∧ ((loaded text12zz []).accept .decode).engineTurn.err = true := by decide

/-- The state in the middle of a DECODE meets the invariant, and its step is the completion. -/
theorem witness_EveryStepKeepsTheInvariant : busy16.Inv ∧ ∃ t, step busy16 = .next t ∧ t.done = true :=
  ⟨witness_BusyInterlock.1, _, rfl, rfl⟩

theorem witness_StepRunsTheDecodedCommand :
    (core16.withEvents [.host (.wr32 0x010#16 1#32)]).events = [.host (.wr32 0x010#16 1#32)] ∧
    decodeCommand 1#32 = .ok .decode ∧ decodeCommand 3#32 = .error (.reservedOpcode 0x03#8) ∧ core16.events = [] :=
  ⟨rfl, rfl, rfl, rfl⟩

end Sys2Proof.Tests
end

