-- ==== Sys2Proof/Proofs/Registers.lean ====
section
/-! SUPPORT. The register block: RD32 of a register (R24, R25), the identification registers (R27 to R29), and
the reserved bits (R26). -/

namespace Sys2Proof.Machine

/-! ### RD32 of a register -/

theorem regOffset_aligned (r : Reg) : (regOffset r).toNat % 4 = 0 := by
  cases r <;> rfl

theorem State.read32_register {s : State} (r : Reg) (hr : s.rst = false) :
    s.read32 (regOffset r) = s.readRegister r := by
  rw [State.read32, if_neg (by simp [hr, regOffset_aligned]), s.locate_register]

/-- An RD32 of a register that can be read answers its word and changes nothing but the port's answer. -/
theorem deliver_rd32_register {s : State} {r : Reg} {w : Word} (hr : s.rst = false)
    (hw : s.readRegister r = some w) :
    deliver (.host (.rd32 (regOffset r))) s = .next { s with response := .data32 w } := by
  have hread : s.read32 (regOffset r) = some w := (State.read32_register r hr).trans hw
  simp only [deliver, transact, hread, State.answerRead32, State.respond]

/-- Settles O37: each register's read is `deliver_rd32_register`, and the capacity facts are the model's laws. -/
theorem identificationRegistersRead : Obligations.IdentificationRegistersRead := by
  intro s hr
  obtain ⟨hlow, hhigh⟩ := s.hexCap_bounds
  exact ⟨deliver_rd32_register (r := .id) hr rfl, by decide, deliver_rd32_register (r := .version) hr rfl,
    deliver_rd32_register (r := .cap) hr rfl, s.hexCap_mod, hlow, hhigh, rfl, rfl⟩

/-! ### Reserved bits

A field is `n` bits of a register from bit `k` up; a mask covers it where it has all of these bits. -/

/-- A field shows no bit outside a mask that covers it. -/
theorem field_and_not_mask {n k : Nat} {m : Word} (x : BitVec n)
    (hm : (BitVec.allOnes n).setWidth 32 <<< k &&& ~~~m = 0#32) : x.setWidth 32 <<< k &&& ~~~m = 0#32 := by
  have hx : x.setWidth 32 <<< k = x.setWidth 32 <<< k &&& (BitVec.allOnes n).setWidth 32 <<< k := by
    rw [← BitVec.shiftLeft_and_distrib, ← BitVec.setWidth_and, BitVec.and_allOnes]
  rw [hx, BitVec.and_assoc, hm, BitVec.and_zero]

/-- The same for a field that starts at bit 0. -/
theorem lowField_and_not_mask {n : Nat} {m : Word} (x : BitVec n)
    (hm : (BitVec.allOnes n).setWidth 32 &&& ~~~m = 0#32) : x.setWidth 32 &&& ~~~m = 0#32 := by
  rw [← BitVec.shiftLeft_zero ((BitVec.allOnes n).setWidth 32)] at hm
  rw [← BitVec.shiftLeft_zero (x.setWidth 32), field_and_not_mask x hm]

/-- A field is read from a word whatever the bits outside a mask that covers it. -/
theorem extractLsb'_and_mask {n k : Nat} {m : Word} (v : Word) (hm : m.extractLsb' k n = BitVec.allOnes n) :
    (v &&& m).extractLsb' k n = v.extractLsb' k n := by
  rw [BitVec.extractLsb'_and, hm, BitVec.and_allOnes]

theorem or_and_not_mask {a b m : Word} (ha : a &&& ~~~m = 0#32) (hb : b &&& ~~~m = 0#32) :
    (a ||| b) &&& ~~~m = 0#32 := by
  rw [BitVec.and_comm, BitVec.and_or_distrib_left, BitVec.and_comm _ a, BitVec.and_comm _ b, ha, hb, BitVec.or_zero]

/-- No bit of a register is reserved where the mask is full. -/
theorem and_not_fullMask (w : Word) : w &&& ~~~0xFFFFFFFF#32 = 0#32 := by
  rw [show ~~~0xFFFFFFFF#32 = 0#32 by decide, BitVec.and_zero]

theorem halfWord_reserved (v : Half) : halfWord v &&& ~~~0x0000FFFF#32 = 0#32 :=
  lowField_and_not_mask v (by decide)

theorem State.ctrlWord_reserved (s : State) : s.ctrlWord &&& ~~~(fieldMask .ctrl) = 0#32 :=
  lowField_and_not_mask (BitVec.ofBool s.ie) (by decide)

theorem State.statusWord_reserved (s : State) : s.statusWord &&& ~~~(fieldMask .status) = 0#32 := by
  have hbusy := lowField_and_not_mask (m := fieldMask .status) (BitVec.ofBool s.busy) (by decide)
  have hdone := field_and_not_mask (k := 1) (m := fieldMask .status) (BitVec.ofBool s.done) (by decide)
  have herr := field_and_not_mask (k := 2) (m := fieldMask .status) (BitVec.ofBool s.err) (by decide)
  have hcode := field_and_not_mask (k := 8) (m := fieldMask .status) s.errCode (by decide)
  exact or_and_not_mask (or_and_not_mask (or_and_not_mask hbusy hdone) herr) hcode

/-- R26, reads: the word of a register is 0 outside the register's fields. -/
theorem State.readRegister_reserved {s : State} {r : Reg} {w : Word} (h : s.readRegister r = some w) :
    w &&& ~~~(fieldMask r) = 0#32 := by
  cases r <;> cases h
  case id => exact and_not_fullMask _
  case version => exact and_not_fullMask _
  case cap => exact and_not_fullMask _
  case ctrl => exact s.ctrlWord_reserved
  case status => exact s.statusWord_reserved
  case errPos => exact halfWord_reserved _
  case hexLen => exact halfWord_reserved _
  case bgLen => exact halfWord_reserved _
  case outLen => exact halfWord_reserved _

/-- R26, writes: the three registers that store data read only their field of it; no other register stores any. -/
theorem State.writeRegister_reserved (s : State) (v : Word) (r : Reg) :
    s.writeRegister v r = s.writeRegister (v &&& fieldMask r) r := by
  have hhalf : (v &&& 0x0000FFFF#32).extractLsb' 0 16 = v.extractLsb' 0 16 := extractLsb'_and_mask v (by decide)
  have hbit : (v &&& 0x00000001#32).getLsbD 0 = v.getLsbD 0 := by simp
  cases r
  case ctrl => simp only [State.writeRegister, fieldMask, hbit]
  case hexLen => simp only [State.writeRegister, fieldMask, hhalf]
  case bgLen => simp only [State.writeRegister, fieldMask, hhalf]
  all_goals rfl

/-- Settles O39, reads and writes each by the split over the registers. -/
theorem reservedBitsIgnoreWritesAndReadZero : Obligations.ReservedBitsIgnoreWritesAndReadZero :=
  fun s r => ⟨fun _ => State.readRegister_reserved, fun v => s.writeRegister_reserved v r⟩

end Sys2Proof.Machine
end

section
/-! SUPPORT. The host port's memory map: words in the windows (R54, R55), the busfaults of R57 as the address map
gives them, the windows of the ROM, OUT_MEM, HEX_MEM and BG_MEM (R58 to R61), and a running command's inputs (R67). -/

namespace Sys2Proof.Machine

/-! ### Offsets -/

theorem half_toNat_of_lt {n : Nat} (h : n < 0x10000) : (BitVec.ofNat 16 n).toNat = n := by
  rw [BitVec.toNat_ofNat, Nat.mod_eq_of_lt h]

theorem regOffset_lt (r : Reg) : (regOffset r).toNat < 0x0100 := by
  cases r <;> decide

/-- No two registers start at one offset: the map of R24 finds each register back from its offset. -/
theorem regOffset_inj {q r : Reg} : (regOffset q).toNat = (regOffset r).toNat ↔ q = r := by
  refine ⟨fun h => ?_, fun h => by rw [h]⟩
  have hq : regAt (regOffset q).toNat = some q := regAt_eq_some.2 rfl
  have hr : regAt (regOffset q).toNat = some r := regAt_eq_some.2 h
  exact Option.some.inj (hq.symm.trans hr)

theorem State.eq_regOffset_of_locate {s : State} {a : Half} {r : Reg} (h : s.locate a = .register r) :
    a = regOffset r := by
  rcases s.locate_cases a with ⟨r', ha, hl⟩ | ⟨_, -, hl⟩ | ⟨_, -, -, hl⟩ | ⟨_, -, -, hl⟩ | ⟨_, -, -, hl⟩ | ⟨hl, -⟩ <;>
    rw [hl] at h <;> cases h
  exact BitVec.eq_of_toNat_eq ha

theorem ne_regOffset_of_window {a : Half} (h : 0x0100 ≤ a.toNat) (r : Reg) : a ≠ regOffset r := by
  rintro rfl
  exact absurd (regOffset_lt r) (by omega)

/-- Only the register block holds registers (R62). -/
theorem State.locate_ne_register (s : State) {a : Half} (h : 0x0100 ≤ a.toNat) (r : Reg) :
    s.locate a ≠ .register r :=
  fun hl => ne_regOffset_of_window h r (State.eq_regOffset_of_locate hl)

/-! ### 32-bit reads in a window (R54) -/

/-- Four bytes that can be read are one word, the lowest first. -/
theorem State.wordAt_of_bytes {s : State} {a : Half} (f : Nat → Byte)
    (h : ∀ k < 4, s.byteAt (a + BitVec.ofNat 16 k) = some (f k)) :
    s.wordAt a = some (joinBytes (f 0) (f 1) (f 2) (f 3)) := by
  have h0 : s.byteAt a = some (f 0) := by simpa using h 0 (by omega)
  have h1 : s.byteAt (a + 1) = some (f 1) := h 1 (by omega)
  have h2 : s.byteAt (a + 2) = some (f 2) := h 2 (by omega)
  have h3 : s.byteAt (a + 3) = some (f 3) := h 3 (by omega)
  simp only [State.wordAt, h0, h1, h2, h3, Option.bind_eq_bind, Option.bind_some, Option.pure_def]

theorem State.wordAt_none {s : State} {a : Half} (h : s.byteAt a = none) : s.wordAt a = none := by
  rw [State.wordAt, h, Option.bind_eq_bind, Option.bind_none]

theorem State.wordAt_rom (s : State) {a : Half} {i : Nat} (h : a.toNat = 0x0100 + i) (hi : i + 3 < 256) :
    s.wordAt a = some (joinBytes ((rom (BitVec.ofNat 8 i)).zeroExtend 8)
      ((rom (BitVec.ofNat 8 (i + 1))).zeroExtend 8) ((rom (BitVec.ofNat 8 (i + 2))).zeroExtend 8)
      ((rom (BitVec.ofNat 8 (i + 3))).zeroExtend 8)) := by
  refine State.wordAt_of_bytes (fun k => (rom (BitVec.ofNat 8 (i + k))).zeroExtend 8) fun k hk => ?_
  refine s.byteAt_rom ?_
  rw [offset_add k (by omega), BitVec.toNat_ofNat]
  omega

theorem State.wordAt_hex (s : State) {a : Half} {i : Nat} (h : a.toNat = 0x4000 + i) (hi : i + 3 < s.hexCap) :
    s.wordAt a = some (joinBytes (s.hexByte i) (s.hexByte (i + 1)) (s.hexByte (i + 2)) (s.hexByte (i + 3))) := by
  have hcap := s.hexCap_bounds
  refine State.wordAt_of_bytes (fun k => s.hexByte (i + k)) fun k hk => ?_
  exact s.byteAt_hex (by rw [offset_add k (by omega)]; omega) (by omega)

theorem State.wordAt_bg (s : State) {a : Half} {i : Nat} (h : a.toNat = 0x8000 + i) (hi : i + 3 < s.bgCap) :
    s.wordAt a = some (joinBytes (s.bgByte i) (s.bgByte (i + 1)) (s.bgByte (i + 2)) (s.bgByte (i + 3))) := by
  have hcap := s.hexCap_bounds
  have hbg := s.bgCap_four
  refine State.wordAt_of_bytes (fun k => s.bgByte (i + k)) fun k hk => ?_
  exact s.byteAt_bg (by rw [offset_add k (by omega)]; omega) (by omega)

theorem State.wordAt_out {s : State} {a : Half} {i : Nat} (hb : s.busy = false) (h : a.toNat = 0xC000 + i)
    (hi : i + 3 < s.outCap) :
    s.wordAt a = some (joinBytes (s.outByte i) (s.outByte (i + 1)) (s.outByte (i + 2)) (s.outByte (i + 3))) := by
  have hcap := s.hexCap_bounds
  have hout := s.outCap_two
  refine State.wordAt_of_bytes (fun k => s.outByte (i + k)) fun k hk => ?_
  exact State.byteAt_out hb (by rw [offset_add k (by omega)]; omega) (by omega)

/-- R9, R10: each capacity is a multiple of 4, so an aligned word that starts in a buffer ends in it. -/
theorem State.hexWord_fits {s : State} {i : Nat} (h : i % 4 = 0) (hi : i < s.hexCap) : i + 3 < s.hexCap := by
  have := s.hexCap_mod
  omega

theorem State.bgWord_fits {s : State} {i : Nat} (h : i % 4 = 0) (hi : i < s.bgCap) : i + 3 < s.bgCap := by
  have := s.hexCap_mod
  have := s.bgCap_four
  omega

theorem State.outWord_fits {s : State} {i : Nat} (h : i % 4 = 0) (hi : i < s.outCap) : i + 3 < s.outCap := by
  have := s.hexCap_mod
  have := s.outCap_two
  omega

/-- An aligned word can be read where its first byte can. -/
theorem State.wordAt_eq_none_iff {s : State} {a : Half} (h : a.toNat % 4 = 0) :
    s.wordAt a = none ↔ s.byteAt a = none := by
  refine ⟨fun hw => ?_, State.wordAt_none⟩
  by_contra hbyte
  rcases s.locate_cases a with ⟨r, -, hl⟩ | ⟨b, ha, -⟩ | ⟨i, hi, ha, -⟩ | ⟨i, hi, ha, -⟩ | ⟨i, hi, ha, hl⟩ | ⟨hl, -⟩
  · exact hbyte (by simp only [State.byteAt, hl])
  · have := b.isLt
    simp [s.wordAt_rom ha (by omega)] at hw
  · simp [s.wordAt_hex ha (State.hexWord_fits (by omega) hi)] at hw
  · simp [s.wordAt_bg ha (State.bgWord_fits (by omega) hi)] at hw
  · cases hb : s.busy
    · simp [State.wordAt_out hb ha (State.outWord_fits (by omega) hi)] at hw
    · exact hbyte (by simp [State.byteAt, hl, hb])
  · exact hbyte (by simp only [State.byteAt, hl])

/-- An aligned word can be stored where its first byte can. -/
theorem State.storeWord_eq_none_iff {s : State} {a : Half} (v : Word) (h : a.toNat % 4 = 0) :
    s.storeWord a v = none ↔ s.storeByte a (byteOfWord v 0) = none := by
  refine ⟨fun hw => ?_, State.storeWord_none v⟩
  cases hbyte : s.storeByte a (byteOfWord v 0) with
  | none => rfl
  | some t =>
    obtain ⟨hb, ⟨i, hi, ha, -⟩ | ⟨i, hi, ha, -⟩⟩ := State.storeByte_cases hbyte
    · simp [State.storeWord_hex v hb ha (State.hexWord_fits (by omega) hi)] at hw
    · simp [State.storeWord_bg v hb ha (State.bgWord_fits (by omega) hi)] at hw

/-! ### Which transactions are busfaults -/

/-- The offset of a transaction as the port sees it. -/
def Txn.addr : Txn → Half
  | .rd8 a => a
  | .rd32 a => a
  | .wr8 a _ => a
  | .wr32 a _ => a

theorem Txn.offset_eq (x : Txn) : x.offset = x.addr.toNat := by
  cases x <;> rfl

/-- The cases of R57 other than misalignment, by what lies at the offset. -/
def Location.Refuses (x : Txn) (busy : Bool) : Location → Prop
  | .register r =>
    x.isWide = false ∨ (x.isWrite = true ∧ r ∉ writableRegisters) ∨ (x.isWrite = false ∧ r = .cmd) ∨
      (busy = true ∧ x.isWrite = true ∧ (r = .cmd ∨ r = .hexLen ∨ r = .bgLen))
  | .romEntry _ => x.isWrite = true
  | .hexByte _ => busy = true ∧ x.isWrite = true
  | .bgByte _ => busy = true ∧ x.isWrite = true
  | .outByte _ => x.isWrite = true ∨ busy = true
  | .unassigned => True

theorem mem_registerTable {o : Nat} {r : Reg} : (o, r) ∈ registerTable ↔ o = (regOffset r).toNat := by
  cases r <;> simp [registerTable, regOffset]

theorem mem_registerOffsets {o : Nat} : o ∈ registerTable.map Prod.fst ↔ ∃ r, o = (regOffset r).toNat := by
  simp [mem_registerTable]

theorem Txn.busfaults_of_beyondCapacity {x : Txn} {s : State} (h : x.BeyondCapacity s) : x.Busfaults s :=
  .inr (.inr (.inr (.inr (.inr (.inl h)))))

theorem Txn.busfaults_of_writeToReadOnlyWindow {x : Txn} {s : State} (h : x.WriteToReadOnlyWindow) : x.Busfaults s :=
  .inr (.inr (.inr (.inr (.inr (.inr (.inl h))))))

theorem Txn.busfaults_of_forbiddenWhileBusy {x : Txn} {s : State} (hb : s.busy = true) (h : x.ForbiddenWhileBusy) :
    x.Busfaults s :=
  .inr (.inr (.inr (.inr (.inr (.inr (.inr ⟨hb, h⟩))))))

/-- R57 and R211, through the address map of R62: each place an offset can lie at leaves the cases that
`Location.Refuses` names for it, as the bounds of the windows exclude the others. -/
theorem Txn.busfaults_iff (x : Txn) (s : State) :
    x.Busfaults s ↔ s.rst = true ∨ x.Misaligned ∨ (s.locate x.addr).Refuses x s.busy := by
  have hhex := s.hexCap_bounds
  have hbg := s.bgCap_four
  have hout := s.outCap_two
  have ho := x.offset_eq
  simp only [Txn.Busfaults, Txn.Unassigned, Txn.NarrowOnRegister, Txn.WrongDirection, Txn.BeyondCapacity,
    Txn.WriteToReadOnlyWindow, Txn.ForbiddenWhileBusy, Txn.AtRegister, mem_registerTable, mem_registerOffsets,
    InRegisterBlock, InRomWindow, InHexWindow, InBgWindow, InOutWindow]
  rcases s.locate_cases x.addr with
      ⟨r, ha, hl⟩ | ⟨b, ha, hl⟩ | ⟨i, hi, ha, hl⟩ | ⟨i, hi, ha, hl⟩ | ⟨i, hi, ha, hl⟩ | ⟨hl, ha⟩ <;>
    rw [hl] <;> simp only [Location.Refuses]
  -- A register: the offset is below the windows and names this register only.
  · have := regOffset_lt r
    rw [ho, ha]
    simp only [regOffset_inj]
    grind
  -- A ROM entry, a byte of HEX_MEM, BG_MEM or OUT_MEM: the offset is in one window, below its capacity.
  · have := b.isLt
    grind [regOffset_lt]
  · grind [regOffset_lt]
  · grind [regOffset_lt]
  · grind [regOffset_lt]
  -- Unassigned: each of the ranges is in the list of R57, case 1 or case 5.
  · grind [regOffset_lt]

/-- With RST deasserted and the offset aligned where it has to be, what lies there decides. -/
theorem Txn.busfaults_iff_refuses {x : Txn} {s : State} (hr : s.rst = false)
    (ha : x.isWide = true → x.offset % 4 = 0) : x.Busfaults s ↔ (s.locate x.addr).Refuses x s.busy := by
  have haligned : ¬x.Misaligned := fun ⟨hwide, hoff⟩ => hoff (ha hwide)
  simp [Txn.busfaults_iff, hr, haligned]

/-! ### What each operation of the port refuses -/

theorem State.byteAt_eq_none_iff (s : State) (a : Half) :
    s.byteAt a = none ↔ (s.locate a).Refuses (.rd8 a) s.busy := by
  cases hl : s.locate a <;> simp [State.byteAt, hl, Location.Refuses, Txn.isWide, Txn.isWrite]

theorem State.storeByte_eq_none_iff (s : State) (a : Half) (v : Byte) :
    s.storeByte a v = none ↔ (s.locate a).Refuses (.wr8 a v) s.busy := by
  cases hl : s.locate a <;> simp [State.storeByte, hl, Location.Refuses, Txn.isWide, Txn.isWrite]

/-- Outside the register block a 32-bit transaction is refused where the 8-bit one is. -/
theorem Location.refuses_congr {l : Location} {x y : Txn} {busy : Bool} (hl : ∀ r, l ≠ .register r)
    (h : x.isWrite = y.isWrite) : l.Refuses x busy ↔ l.Refuses y busy := by
  cases l with
  | register r => exact absurd rfl (hl r)
  | _ => simp only [Location.Refuses, h]

theorem State.readRegister_eq_none_iff (s : State) (r : Reg) (a : Half) :
    s.readRegister r = none ↔ (Location.register r).Refuses (.rd32 a) s.busy := by
  cases r <;> simp [State.readRegister, Location.Refuses, Txn.isWide, Txn.isWrite]

theorem State.writeRegister_eq_none_iff (s : State) {r : Reg} (hr : r ≠ .cmd) (a : Half) (v : Word) :
    s.writeRegister v r = none ↔ (Location.register r).Refuses (.wr32 a v) s.busy := by
  cases r <;> simp [State.writeRegister, Location.Refuses, Txn.isWide, Txn.isWrite, writableRegisters] at hr ⊢

theorem State.read8_eq_none_iff (s : State) (a : Half) : s.read8 a = none ↔ (Txn.rd8 a).Busfaults s := by
  cases hr : s.rst <;> simp [Txn.busfaults_iff, State.read8, hr, State.byteAt_eq_none_iff, Txn.isWide, Txn.addr]

theorem State.write8_eq_none_iff (s : State) (a : Half) (v : Byte) :
    s.write8 a v = none ↔ (Txn.wr8 a v).Busfaults s := by
  cases hr : s.rst <;> simp [Txn.busfaults_iff, State.write8, hr, State.storeByte_eq_none_iff, Txn.isWide, Txn.addr]

/-- RD32 of an aligned offset: a register, or a word in a window. -/
theorem State.read32_eq_none_iff (s : State) (a : Half) : s.read32 a = none ↔ (Txn.rd32 a).Busfaults s := by
  rw [State.read32]
  by_cases hg : s.rst = true ∨ a.toNat % 4 ≠ 0
  · exact iff_of_true (if_pos hg) (hg.imp_right fun ha => .inr (.inl ⟨rfl, ha⟩))
  · obtain ⟨hr, ha⟩ := not_or.1 hg
    have ha : a.toNat % 4 = 0 := not_not.1 ha
    rw [if_neg hg, Txn.busfaults_iff_refuses (x := .rd32 a) (by simpa using hr) fun _ => ha, Txn.addr]
    split
    · rename_i r hl
      rw [hl, s.readRegister_eq_none_iff r a]
    · rename_i hl
      rw [State.wordAt_eq_none_iff ha, State.byteAt_eq_none_iff]
      exact Location.refuses_congr hl rfl

/-- WR32 of an aligned offset but CMD's: a register, or a word in a window. -/
theorem State.write32_eq_none_iff (s : State) {a : Half} (v : Word) (hc : a ≠ regOffset .cmd) :
    s.write32 a v = none ↔ (Txn.wr32 a v).Busfaults s := by
  rw [State.write32]
  by_cases hg : s.rst = true ∨ a.toNat % 4 ≠ 0
  · exact iff_of_true (if_pos hg) (hg.imp_right fun ha => .inr (.inl ⟨rfl, ha⟩))
  · obtain ⟨hr, ha⟩ := not_or.1 hg
    have ha : a.toNat % 4 = 0 := not_not.1 ha
    rw [if_neg hg, Txn.busfaults_iff_refuses (x := .wr32 a v) (by simpa using hr) fun _ => ha, Txn.addr]
    split
    · rename_i r hl
      have hr : r ≠ .cmd := by
        rintro rfl
        exact hc (s.eq_regOffset_of_locate hl)
      rw [hl, State.writeRegister_eq_none_iff s hr a]
    · rename_i hl
      rw [State.storeWord_eq_none_iff v ha, State.storeByte_eq_none_iff]
      exact Location.refuses_congr hl rfl

/-- R160, R211, R216: a write of CMD is refused while BUSY = 1 or RST is asserted, and at no other time. -/
theorem Txn.busfaults_cmd_iff (s : State) (v : Word) :
    (Txn.wr32 (regOffset .cmd) v).Busfaults s ↔ s.busy = true ∨ s.rst = true := by
  have haligned : ¬(Txn.wr32 (regOffset .cmd) v).Misaligned := fun h => absurd (regOffset_aligned .cmd) h.2
  rw [Txn.busfaults_iff, Txn.addr, s.locate_register]
  simp [haligned, Location.Refuses, Txn.isWide, Txn.isWrite, writableRegisters, or_comm]

/-- Every word written to CMD goes through `State.onCommandWrite`, with some effect (R160, R163). -/
theorem issue_eq_onCommandWrite (w : Word) (s : State) : ∃ effect, issue w s = s.onCommandWrite effect := by
  unfold issue
  split
  · rename_i i _
    cases i <;> exact ⟨_, rfl⟩
  · exact ⟨_, rfl⟩

/-! ### The answers -/

theorem deliver_rd8 {s : State} {a : Half} {v : Byte} (h : s.read8 a = some v) :
    deliver (.host (.rd8 a)) s = .next { s with response := .data8 v } := by
  simp only [deliver, transact, h, State.answerRead8, State.respond]

theorem deliver_rd32 {s : State} {a : Half} {v : Word} (h : s.read32 a = some v) :
    deliver (.host (.rd32 a)) s = .next { s with response := .data32 v } := by
  simp only [deliver, transact, h, State.answerRead32, State.respond]

theorem deliver_wr8 {s t : State} {a : Half} {v : Byte} (h : s.write8 a v = some t) :
    deliver (.host (.wr8 a v)) s = .next { t with response := .ack } := by
  simp only [deliver, transact, h, State.answerWrite, State.respond]

theorem deliver_wr32 {s t : State} {a : Half} {v : Word} (hc : a ≠ regOffset .cmd) (h : s.write32 a v = some t) :
    deliver (.host (.wr32 a v)) s = .next { t with response := .ack } := by
  simp only [deliver, transact, if_neg hc, h, State.answerWrite, State.respond]

/-- R57, R211: a listed transaction changes nothing but the port's answer, which is a busfault. -/
theorem deliver_busfault {s : State} {x : Txn} (h : x.Busfaults s) :
    deliver (.host x) s = .next { s with response := x.busfault } := by
  cases x with
  | rd8 a =>
    rw [← State.read8_eq_none_iff] at h
    simp [deliver, transact, h, State.answerRead8, State.respond, Txn.busfault, Txn.isWrite]
  | rd32 a =>
    rw [← State.read32_eq_none_iff] at h
    simp [deliver, transact, h, State.answerRead32, State.respond, Txn.busfault, Txn.isWrite]
  | wr8 a v =>
    rw [← State.write8_eq_none_iff] at h
    simp [deliver, transact, h, State.answerWrite, State.respond, Txn.busfault, Txn.isWrite]
  | wr32 a v =>
    by_cases hc : a = regOffset .cmd
    · subst hc
      obtain ⟨effect, hissue⟩ := issue_eq_onCommandWrite v s
      rw [deliver, transact, if_pos rfl, hissue, State.onCommandWrite_closed effect ((Txn.busfaults_cmd_iff s v).1 h)]
      rfl
    · rw [← State.write32_eq_none_iff s v hc] at h
      simp [deliver, transact, hc, h, State.answerWrite, State.respond, Txn.busfault, Txn.isWrite]

/-- A transaction that is not listed is answered with its data or the acknowledgement. -/
theorem deliver_not_busfault {s : State} {x : Txn} (h : ¬x.Busfaults s) :
    ∃ t, deliver (.host x) s = .next t ∧ t.response.isBusfault = false := by
  cases x with
  | rd8 a =>
    rw [← State.read8_eq_none_iff] at h
    obtain ⟨v, hv⟩ := Option.ne_none_iff_exists'.1 h
    exact ⟨_, deliver_rd8 hv, rfl⟩
  | rd32 a =>
    rw [← State.read32_eq_none_iff] at h
    obtain ⟨v, hv⟩ := Option.ne_none_iff_exists'.1 h
    exact ⟨_, deliver_rd32 hv, rfl⟩
  | wr8 a v =>
    rw [← State.write8_eq_none_iff] at h
    obtain ⟨t, ht⟩ := Option.ne_none_iff_exists'.1 h
    exact ⟨_, deliver_wr8 ht, rfl⟩
  | wr32 a v =>
    by_cases hc : a = regOffset .cmd
    · subst hc
      rw [Txn.busfaults_cmd_iff] at h
      obtain ⟨effect, hissue⟩ := issue_eq_onCommandWrite v s
      exact ⟨(effect s).respond .ack,
        by rw [deliver, transact, if_pos rfl, hissue, State.onCommandWrite, if_neg h], rfl⟩
    · rw [← State.write32_eq_none_iff s v hc] at h
      obtain ⟨t, ht⟩ := Option.ne_none_iff_exists'.1 h
      exact ⟨_, deliver_wr32 hc ht, rfl⟩

/-- Settles O35: both halves are the lemmas on the port's answers. -/
theorem busfaultsExactlyAsListed : Obligations.BusfaultsExactlyAsListed :=
  fun _ _ => ⟨deliver_busfault, deliver_not_busfault⟩

/-! ### Transactions in the windows, beyond which no register lies -/

theorem State.read32_window {s : State} {a : Half} (hr : s.rst = false) (ha : a.toNat % 4 = 0)
    (h : 0x0100 ≤ a.toNat) : s.read32 a = s.wordAt a := by
  rw [State.read32, if_neg (by simp [hr, ha])]
  split
  · exact absurd ‹_› (s.locate_ne_register h _)
  · rfl

theorem deliver_wr32_window {s t : State} {a : Half} {v : Word} (hr : s.rst = false) (ha : a.toNat % 4 = 0)
    (h : 0x0100 ≤ a.toNat) (hw : s.storeWord a v = some t) :
    deliver (.host (.wr32 a v)) s = .next { t with response := .ack } := by
  refine deliver_wr32 (ne_regOffset_of_window h .cmd) ?_
  rw [State.write32, if_neg (by simp [hr, ha])]
  split
  · exact absurd ‹_› (s.locate_ne_register h _)
  · exact hw

/-! ### The ROM window (R58) -/

/-- R57 case 6: a write in the ROM window or the OUT_MEM window is a busfault. -/
theorem deliver_write_readOnlyWindow {s : State} {a : Half} (h : InRomWindow a.toNat ∨ InOutWindow a.toNat) :
    (∀ v, deliver (.host (.wr8 a v)) s = .next { s with response := .busfaultWrite }) ∧
    ∀ v, deliver (.host (.wr32 a v)) s = .next { s with response := .busfaultWrite } :=
  ⟨fun v => deliver_busfault (x := .wr8 a v) (Txn.busfaults_of_writeToReadOnlyWindow ⟨rfl, h⟩),
    fun v => deliver_busfault (x := .wr32 a v) (Txn.busfaults_of_writeToReadOnlyWindow ⟨rfl, h⟩)⟩

/-- Settles O44: reads by `State.byteAt_rom` and `State.wordAt_rom`, writes as busfaults of R57 case 6. -/
theorem romWindowReadsTheRom : Obligations.RomWindowReadsTheRom := by
  intro s hr
  refine ⟨fun b hb => deliver_rd8 ?_, fun j hj => deliver_rd32 ?_, fun a ha => deliver_write_readOnlyWindow (.inl ha)⟩
  · rw [State.read8_open _ hr]
    refine s.byteAt_rom ?_
    rw [half_toNat_of_lt (by omega), BitVec.toNat_ofNat]
    omega
  · have ha : (BitVec.ofNat 16 (0x0100 + 4 * j)).toNat = 0x0100 + 4 * j := half_toNat_of_lt (by omega)
    rw [State.read32_window hr (by omega) (by omega)]
    exact s.wordAt_rom ha (by omega)

/-! ### The OUT_MEM window (R61) -/

/-- R57 case 5: a read at or beyond OUT_CAP is a busfault. -/
theorem deliver_read_beyondOutCap {s : State} {a : Half} (h : InOutWindow a.toNat)
    (hcap : s.outCap ≤ a.toNat - 0xC000) :
    deliver (.host (.rd8 a)) s = .next { s with response := .busfaultRead 0#32 } ∧
    deliver (.host (.rd32 a)) s = .next { s with response := .busfaultRead 0#32 } :=
  ⟨deliver_busfault (x := .rd8 a) (Txn.busfaults_of_beyondCapacity (.inr (.inr ⟨h, hcap⟩))),
    deliver_busfault (x := .rd32 a) (Txn.busfaults_of_beyondCapacity (.inr (.inr ⟨h, hcap⟩)))⟩

/-- R57 case 7, R216: a read in the OUT_MEM window while BUSY = 1 is a busfault. -/
theorem deliver_read_outWindow_busy {s : State} {a : Half} (h : InOutWindow a.toNat) (hb : s.busy = true) :
    deliver (.host (.rd8 a)) s = .next { s with response := .busfaultRead 0#32 } ∧
    deliver (.host (.rd32 a)) s = .next { s with response := .busfaultRead 0#32 } :=
  ⟨deliver_busfault (x := .rd8 a) (Txn.busfaults_of_forbiddenWhileBusy hb (.inr (.inr ⟨rfl, h⟩))),
    deliver_busfault (x := .rd32 a) (Txn.busfaults_of_forbiddenWhileBusy hb (.inr (.inr ⟨rfl, h⟩)))⟩

/-- Settles O45: the reads that answer data by `State.byteAt_out` and `State.wordAt_out`; every other clause is a
case of R57. -/
theorem outputWindowIsReadOnly : Obligations.OutputWindowIsReadOnly := by
  intro s hr
  have hhex := s.hexCap_bounds
  have hout := s.outCap_two
  have haddr : ∀ i ≤ 0x1FFF, (BitVec.ofNat 16 (0xC000 + i)).toNat = 0xC000 + i :=
    fun i hi => half_toNat_of_lt (by omega)
  refine ⟨fun i hi hb => deliver_rd8 ?_, fun i hi hal hb => deliver_rd32 ?_, fun i hcap hi => ?_, fun a ha => ?_⟩
  · rw [State.read8_open _ hr, State.byteAt_out hb (haddr i (by omega)) hi]
  · have ha := haddr i (by omega)
    rw [State.read32_window hr (by omega) (by omega), State.wordAt_out hb ha (State.outWord_fits hal hi)]
  · have ha := haddr i hi
    exact deliver_read_beyondOutCap (by omega) (by omega)
  · exact ⟨deliver_read_outWindow_busy ha, deliver_write_readOnlyWindow (.inr ha)⟩

/-! ### WR32 on HEX_MEM and BG_MEM (R55) -/

/-- The four bytes of a word in the order R55 stores them. -/
def wordBytes (v : Word) : List Byte := (List.range 4).map (byteOfWord v)

theorem State.setHexWord_eq (i : Nat) (v : Word) (s : State) :
    s.setHexWord i v = { s with hexMem := s.hexMem.writeFrom i (wordBytes v) } := rfl

theorem State.setBgWord_eq (i : Nat) (v : Word) (s : State) :
    s.setBgWord i v = { s with bgMem := s.bgMem.writeFrom i (wordBytes v) } := rfl

/-- Every byte of a buffer after the four bytes of a word are written from index `i` on. -/
theorem Buffer.read_writeWord (name : Config.BufferName) (b : Buffer) (i j : Nat) (v : Word) :
    Buffer.read name (b.writeFrom i (wordBytes v)) j =
      if i ≤ j ∧ j < i + 4 then v.extractLsb' (8 * (j - i)) 8 else Buffer.read name b j := by
  by_cases hj : j < i
  · rw [Buffer.read_writeFrom_before name b _ hj, if_neg (by omega)]
  · obtain ⟨k, rfl⟩ := Nat.exists_eq_add_of_le (not_lt.1 hj)
    rw [Buffer.read_writeFrom, Nat.add_sub_cancel_left]
    by_cases hk : k < 4
    · rw [if_pos (by omega)]
      simp [wordBytes, List.getD, hk, byteOfWord]
    · rw [if_neg (by omega)]
      simp [wordBytes, List.getD, hk]

/-- Settles O42: an aligned word that starts in the buffer fits in it, so R55's four bytes are stored. -/
theorem wordWritesAreLittleEndian : Obligations.WordWritesAreLittleEndian := by
  rintro s i v ⟨hb, hr⟩ hal
  have hhex := s.hexCap_bounds
  have hbg := s.bgCap_four
  constructor
  · intro hi
    have ha : (BitVec.ofNat 16 (0x4000 + i)).toNat = 0x4000 + i := half_toNat_of_lt (by omega)
    have hstore := State.storeWord_hex v hb ha (State.hexWord_fits hal hi)
    rw [State.setHexWord_eq] at hstore
    have hanswer := deliver_wr32_window hr (by omega) (by omega) hstore
    exact ⟨s.hexMem.writeFrom i (wordBytes v), hanswer, fun j => Buffer.read_writeWord .hex s.hexMem i j v⟩
  · intro hi
    have ha : (BitVec.ofNat 16 (0x8000 + i)).toNat = 0x8000 + i := half_toNat_of_lt (by omega)
    have hstore := State.storeWord_bg v hb ha (State.bgWord_fits hal hi)
    rw [State.setBgWord_eq] at hstore
    have hanswer := deliver_wr32_window hr (by omega) (by omega) hstore
    exact ⟨s.bgMem.writeFrom i (wordBytes v), hanswer, fun j => Buffer.read_writeWord .bg s.bgMem i j v⟩

/-! ### A running command's inputs (R67) -/

/-- `t` runs the same command as `s`, on the same inputs: everything the outcome depends on. -/
structure State.SameJob (s t : State) : Prop where
  busy : t.busy = s.busy
  pendingOp : t.pendingOp = s.pendingOp
  hexLen : t.hexLen = s.hexLen
  bgLen : t.bgLen = s.bgLen
  hexMem : t.hexMem = s.hexMem
  bgMem : t.bgMem = s.bgMem
  capBlocks : t.capBlocks = s.capBlocks

theorem State.SameJob.trans {s t u : State} (h : s.SameJob t) (k : t.SameJob u) : s.SameJob u :=
  ⟨k.busy.trans h.busy, k.pendingOp.trans h.pendingOp, k.hexLen.trans h.hexLen, k.bgLen.trans h.bgLen,
    k.hexMem.trans h.hexMem, k.bgMem.trans h.bgMem, k.capBlocks.trans h.capBlocks⟩

/-- R168: the outcome is a function of the command and its inputs. -/
theorem State.SameJob.pendingOutcome {s t : State} (h : s.SameJob t) : t.pendingOutcome = s.pendingOutcome := by
  have hhexCap : t.hexCap = s.hexCap := by rw [State.hexCap, h.capBlocks, State.hexCap]
  have hbgCap : t.bgCap = s.bgCap := by rw [State.bgCap, hhexCap, State.bgCap]
  have hhex : t.hexByte = s.hexByte := by
    funext i
    rw [State.hexByte, h.hexMem, State.hexByte]
  have hbg : t.bgByte = s.bgByte := by
    funext i
    rw [State.bgByte, h.bgMem, State.bgByte]
  simp only [State.pendingOutcome, State.decodeOutcome, State.blendOutcome, State.hexBytes, State.bgBytes,
    h.pendingOp, h.hexLen, h.bgLen, hhexCap, hbgCap, hhex, hbg]

/-- While BUSY = 1 a host turn is answered, or it writes CTRL; every other effect needs BUSY = 0. -/
theorem Takes.sameJob {s t : State} {x : Txn} (h : Takes s (.host x) t) (hb : s.busy = true) : s.SameJob t := by
  cases h
  case answer => constructor <;> rfl
  case control => constructor <;> rfl
  all_goals exact nomatch hb.symm.trans ‹s.busy = false›

/-- A run of host turns from a busy state, by induction on the turns. -/
theorem run_host_sameJob (es : List Event) (s : State) (hb : s.busy = true) (he : ∀ e ∈ es, e.isHostTurn = true) :
    ∃ t, Host.Core.run Sys2Proof.core es.length (s.withEvents es) = .next t ∧ s.SameJob t := by
  induction es generalizing s with
  | nil => exact ⟨s.withEvents [], rfl, by constructor <;> rfl⟩
  | cons e es ih =>
    cases e with
    | host x =>
      obtain ⟨u, hu⟩ := deliver_next (.host x) (s.withEvents es)
      have htakes := deliver_takes hu
      have hjob : s.SameJob u := State.SameJob.trans (by constructor <;> rfl) (htakes.sameJob (by exact hb))
      have hevents : u = u.withEvents es := by
        have : u.events = es := htakes.events_eq
        simp [State.withEvents, ← this]
      obtain ⟨t, ht, hrest⟩ := ih u (hjob.busy.trans hb) fun e h => he e (List.mem_cons_of_mem _ h)
      have hstep : step (s.withEvents (.host x :: es)) = .next u := hu
      refine ⟨t, ?_, hjob.trans hrest⟩
      rw [List.length_cons, core_run_of_step hstep, hevents, ht]
    | _ => exact absurd (he _ List.mem_cons_self) (by decide)

/-- Settles O27: such a run keeps the job, and the job determines the outcome. -/
theorem inputsAreFixedWhileBusy : Obligations.InputsAreFixedWhileBusy := by
  intro s es hb he
  obtain ⟨t, ht, hjob⟩ := run_host_sameJob es s hb he
  exact ⟨t, ht, hjob.busy.trans hb, hjob.pendingOp, hjob.hexLen, hjob.bgLen, hjob.hexMem, hjob.bgMem,
    hjob.pendingOutcome⟩

end Sys2Proof.Machine
end

section
/-! SUPPORT. Command words (spec/30_encoding.md R81 to R83, R86): the legal words are 0, 1 and 2, every other one
decodes to an error, and what the write of one to CMD does (R163). -/

namespace Sys2Proof.Machine

/-! ### The fields of a word (R81) -/

theorem wordOpcode_toNat (w : Word) : (wordOpcode w).toNat = w.toNat % 256 := by
  simp

theorem wordMbz_toNat (w : Word) : (wordMbz w).toNat = w.toNat / 256 := by
  have := w.isLt
  rw [BitVec.extractLsb'_toNat, Nat.shiftRight_eq_div_pow, Nat.mod_eq_of_lt (by omega)]

theorem mbzClear_iff (w : Word) : MbzClear w ↔ w.toNat < 256 := by
  rw [MbzClear, ← BitVec.toNat_inj, wordMbz_toNat]
  exact Nat.div_eq_zero_iff_lt (by decide)

/-- A legal word is a number below 3, because MBZ = 0 leaves only the bits of OPCODE. -/
theorem wordWellFormed_iff_lt (w : Word) : WordWellFormed w ↔ w.toNat < 3 := by
  rw [WordWellFormed, mbzClear_iff, OpcodeAssigned, wordOpcode_toNat]
  omega

/-- The legal words are those of the opcode table (R82). -/
theorem wordWellFormed_iff (w : Word) : WordWellFormed w ↔ w = 0#32 ∨ w = 1#32 ∨ w = 2#32 := by
  simp only [wordWellFormed_iff_lt, ← BitVec.toNat_inj, BitVec.toNat_ofNat]
  omega

/-! ### What the decoder refuses (R83, R86) -/

theorem decodeOpcode_eq_none_iff (op : BitVec 8) : decodeOpcode op = none ↔ 3 ≤ op.toNat := by
  unfold decodeOpcode
  split
  case h_4 h0 h1 h2 =>
    rw [imp_false] at h0 h1 h2
    exact iff_of_true rfl (by omega)
  all_goals exact iff_of_false nofun (by omega)

theorem decodeCommand_error_iff (w : Word) : (∃ e, decodeCommand w = .error e) ↔ ¬WordWellFormed w := by
  by_cases hm : MbzClear w
  · rw [decodeCommand, if_pos hm]
    have hiff : ¬WordWellFormed w ↔ decodeOpcode (wordOpcode w) = none := by
      rw [decodeOpcode_eq_none_iff, ← not_lt]
      exact not_congr (and_iff_right hm)
    cases hd : decodeOpcode (wordOpcode w) <;> simp [hiff, hd]
  · rw [decodeCommand, if_neg hm]
    exact iff_of_true ⟨_, rfl⟩ fun h => hm h.1

theorem decodeCommand_error_iff_ne (w : Word) :
    (∃ e, decodeCommand w = .error e) ↔ w ≠ 0#32 ∧ w ≠ 1#32 ∧ w ≠ 2#32 := by
  rw [decodeCommand_error_iff, wordWellFormed_iff, not_or, not_or]

/-- Settles O2: the three legal words are computed, and all others are refused by `decodeCommand_error_iff_ne`. -/
theorem commandWordDecodeIsTotal : Obligations.CommandWordDecodeIsTotal := by
  intro w
  refine ⟨?ack, ?decode, ?blend, fun h0 h1 h2 => (decodeCommand_error_iff_ne w).2 ⟨h0, h1, h2⟩⟩
  all_goals
    rintro rfl
    rfl

/-! ### The write of an illegal word (R86, R163) -/

theorem deliver_illegalWord {s : State} {w : Word} {e : DecodeError} (hs : s.TakesCommands)
    (hd : decodeCommand w = .error e) :
    deliver (.host (.wr32 (regOffset .cmd) w)) s = .next ((s.enterError .illegalCommand 0#16).respond .ack) := by
  obtain ⟨hb, hr⟩ := hs
  rw [deliver, transact, if_pos rfl, issue, hd]
  exact State.onCommandWrite_open _ hb hr

/-- Settles O3: the illegal words are the ill-formed ones, and the write is `deliver_illegalWord`. -/
theorem illegalWordsAreRecordedNotFaulted : Obligations.IllegalWordsAreRecordedNotFaulted := by
  intro w
  refine ⟨?fields, decodeCommand_error_iff_ne w, ?write⟩
  case fields => rw [decodeCommand_error_iff, not_and_or, or_comm, not_lt]
  case write =>
    rintro s hs ⟨e, hd⟩
    exact ⟨_, deliver_illegalWord hs hd, rfl, rfl, rfl⟩

end Sys2Proof.Machine
end

section
/-! SUPPORT. The hex decoder (spec/40_hex_decoder.md): the ROM's entries and the lookup (R100 to R102), packing (R104),
what plain decoding answers (R105, R107, R108), and that it undoes the hex encoding of bytes (R109). -/

namespace Sys2Proof.Machine

/-! ### The lookup ROM (R100, R101) -/

theorem validEntry_valid (n : Nat) : (validEntry n).getLsbD 4 = true := by
  simp [validEntry]

/-- The ROM holds nothing but the empty entry and valid entries. -/
theorem rom_cases (b : Byte) : rom b = 0#5 ∨ ∃ n, rom b = validEntry n := by
  unfold rom
  dsimp only
  split_ifs
  · exact .inr ⟨_, rfl⟩
  · exact .inr ⟨_, rfl⟩
  · exact .inr ⟨_, rfl⟩
  · exact .inl rfl

theorem rom_eq_zero_of_invalid {b : Byte} (h : (rom b).getLsbD 4 = false) : rom b = 0#5 := by
  obtain h0 | ⟨n, hn⟩ := rom_cases b
  · exact h0
  · rw [hn, validEntry_valid] at h
    cases h

/-- Outside the ranges of '0' to '9', 'A' to 'F' and 'a' to 'f' the ROM is zero. -/
theorem rom_eq_zero_of_gap {i : Nat} (hi : i < 256) (hd : i < 0x30 ∨ 0x39 < i) (hu : i < 0x41 ∨ 0x46 < i)
    (hl : i < 0x61 ∨ 0x66 < i) : rom (BitVec.ofNat 8 i) = 0#5 := by
  have hb : (BitVec.ofNat 8 i).toNat = i := Nat.mod_eq_of_lt hi
  rw [rom, hb, if_neg (by omega), if_neg (by omega), if_neg (by omega)]

/-- A run of indices between the digits' ranges is a run of zeros in the listing. -/
theorem map_rom_gap {a n : Nat} (hn : a + n ≤ 256) (hd : a + n ≤ 0x30 ∨ 0x39 < a) (hu : a + n ≤ 0x41 ∨ 0x46 < a)
    (hl : a + n ≤ 0x61 ∨ 0x66 < a) :
    (List.range' a n).map (fun i => (rom (BitVec.ofNat 8 i)).toNat) = List.replicate n 0 := by
  refine List.eq_replicate_iff.2 ⟨by simp, fun x hx => ?_⟩
  obtain ⟨i, hi, rfl⟩ := List.mem_map.1 hx
  obtain ⟨hle, hlt⟩ := List.mem_range'_1.1 hi
  rw [rom_eq_zero_of_gap (by omega) (by omega) (by omega) (by omega)]
  rfl

/-- The 256 indices, cut where the digits' ranges begin and end. -/
theorem range_256_eq_runs : List.range 256 =
    List.range' 0 48 ++ List.range' 48 10 ++ List.range' 58 7 ++ List.range' 65 6 ++ List.range' 71 26 ++
      List.range' 97 6 ++ List.range' 103 153 := by
  rw [List.range_eq_range', List.range'_append_1 (s := 0) (m := 48), List.range'_append_1 (s := 0) (m := 58),
    List.range'_append_1 (s := 0) (m := 65), List.range'_append_1 (s := 0) (m := 71),
    List.range'_append_1 (s := 0) (m := 97), List.range'_append_1 (s := 0) (m := 103)]

/-- The ROM's entries as R101 lists them, in runs. -/
def romListing : List Nat :=
  List.replicate 48 0x00 ++ [0x10, 0x11, 0x12, 0x13, 0x14, 0x15, 0x16, 0x17, 0x18, 0x19] ++
  List.replicate 7 0x00 ++ [0x1A, 0x1B, 0x1C, 0x1D, 0x1E, 0x1F] ++
  List.replicate 26 0x00 ++ [0x1A, 0x1B, 0x1C, 0x1D, 0x1E, 0x1F] ++ List.replicate 153 0x00

/-- The gaps are zero by `map_rom_gap`, and the digits' entries are computed. -/
theorem map_rom_range : (List.range 256).map (fun i => (rom (BitVec.ofNat 8 i)).toNat) = romListing := by
  simp only [range_256_eq_runs, List.map_append]
  rw [map_rom_gap (a := 0), map_rom_gap (a := 58), map_rom_gap (a := 71), map_rom_gap (a := 103)]
  · rfl
  all_goals omega

/-- The valid entries are counted on the listing. -/
theorem rom_valid_count : ((List.range 256).filter fun i => (rom (BitVec.ofNat 8 i)).getLsbD 4).length = 22 := by
  have hcount := List.countP_map (p := fun e => e.testBit 4) (l := List.range 256)
    (f := fun i => (rom (BitVec.ofNat 8 i)).toNat)
  rw [map_rom_range] at hcount
  rw [← List.countP_eq_length_filter]
  refine hcount.symm.trans ?_
  simp only [romListing, List.countP_append, List.countP_replicate]
  rfl

/-- Settles O5: the listing by its runs, the zero value by `rom_eq_zero_of_invalid`, and the count on the listing. -/
theorem romHoldsTheTable : Obligations.RomHoldsTheTable := by
  refine ⟨map_rom_range, fun b hb => ?_, rom_valid_count⟩
  rw [rom_eq_zero_of_invalid hb]
  rfl

/-! ### The lookup (R102) -/

/-- The ROM's ranges all lie below 0x80. -/
theorem lookup_eq_none_of_bit7 {c : Byte} (h : c.getLsbD 7 = true) : lookup c = none := by
  have hc : 128 ≤ c.toNat := BitVec.le_toNat_of_msb_true (BitVec.msb_eq_getLsbD_last c ▸ h)
  rw [lookup_eq, if_neg (by omega), if_neg (by omega), if_neg (by omega)]

/-- Settles O6: the first two clauses are the branches of `lookup`, and the last is `lookup_eq_none_of_bit7`. -/
theorem lookupReadsTheRom : Obligations.LookupReadsTheRom :=
  fun _ => ⟨fun hv => if_pos hv, fun hv => if_neg (ne_true_of_eq_false hv), lookup_eq_none_of_bit7⟩

/-! ### Packing (R104) -/

/-- Settles O7, by the packing laws of the two slots. -/
theorem packKeepsTheNibblesApart : Obligations.PackKeepsTheNibblesApart :=
  fun lo hi => ⟨rfl, slotA_pack lo hi, slotB_pack lo hi⟩

/-! ### Plain decoding (R105) -/

theorem decodeFn_of_odd {h : List Byte} (ho : h.length % 2 = 1) : decodeFn h = .err .malformedLength 0#16 :=
  if_pos ho

theorem decodeFn_of_scan_error {h : List Byte} {i : Nat} (he : h.length % 2 = 0) (hs : scanDigits 0 h = .error i) :
    decodeFn h = .err .invalidDigit (BitVec.ofNat 16 i) := by
  obtain ⟨ho, -⟩ | ⟨-, j, hj, heq⟩ | ⟨-, vs, hvs, -⟩ := decodeFn_cases h
  · omega
  · rw [hs] at hj
    cases hj
    exact heq
  · rw [hs] at hvs
    cases hvs

/-- Decoding hex digits packs their values in pairs. -/
theorem decodeFn_of_digits {h : List Byte} {vs : List Nibble} (he : h.length % 2 = 0)
    (hv : h.map lookup = vs.map some) : decodeFn h = .ok (packPairs vs) := by
  have hs := scanDigits_ok_iff (i := 0).2 hv
  obtain ⟨ho, -⟩ | ⟨-, j, hj, -⟩ | ⟨-, ws, hws, heq⟩ := decodeFn_cases h
  · omega
  · rw [hs] at hj
    cases hj
  · rw [hs] at hws
    cases hws
    exact heq

/-- A sequence of hex digits is the sequence of its digits' values. -/
theorem exists_map_lookup {h : List Byte} (hd : ∀ c ∈ h, lookup c ≠ none) :
    ∃ vs : List Nibble, h.map lookup = vs.map some := by
  cases hs : scanDigits 0 h with
  | ok vs => exact ⟨vs, scanDigits_ok_iff.1 hs⟩
  | error i =>
    obtain ⟨k, c, -, hc, hn, -⟩ := scanDigits_error_iff.1 hs
    exact absurd hn (hd c (List.mem_of_getElem? hc))

/-- Settles O8: a first invalid character is where the scan stops, and without one `decodeFn_of_digits` gives the
output. -/
theorem decodeFnFollowsTheRule : Obligations.DecodeFnFollowsTheRule := by
  intro h
  refine ⟨decodeFn_of_odd, ?empty, ?invalid, ?valid⟩
  case empty =>
    intro h0
    rw [List.eq_nil_of_length_eq_zero h0]
    rfl
  case invalid =>
    intro he i c hc hn hfirst
    exact decodeFn_of_scan_error he (scanDigits_error_iff.2 ⟨i, c, (Nat.zero_add i).symm, hc, hn, hfirst⟩)
  case valid =>
    intro he hd
    obtain ⟨vs, hvs⟩ := exists_map_lookup hd
    have hs : scanDigits 0 h = .ok vs := scanDigits_ok_iff.2 hvs
    refine ⟨packPairs vs, decodeFn_of_digits he hvs, ?_, fun k c0 c1 v0 v1 h0 h1 hv0 hv1 => ?_⟩
    · rw [packPairs_length, scanDigits_length hs]
    · exact packPairs_getElem? (scanDigits_getElem? hs h0 hv0) (scanDigits_getElem? hs h1 hv1)

/-- Settles O9: the pair's values are packed, the first in the low bits. -/
theorem firstCharacterIsTheLowNibble : Obligations.FirstCharacterIsTheLowNibble := by
  intro c0 c1 v0 v1 h0 h1
  have hv : [c0, c1].map lookup = [v0, v1].map some := by
    rw [List.map_cons, List.map_singleton, h0, h1]
    rfl
  exact decodeFn_of_digits (h := [c0, c1]) (Nat.mod_self 2) hv

/-! ### Output lengths (R107, R141) -/

theorem decodeFn_ok_length {h out : List Byte} (hok : decodeFn h = .ok out) : out.length = h.length / 2 := by
  obtain ⟨-, heq⟩ | ⟨-, i, -, heq⟩ | ⟨-, vs, hs, heq⟩ := decodeFn_cases h <;> cases heq.symm.trans hok
  rw [packPairs_length, scanDigits_length hs]

theorem blendFn_ok_length {fg bgs out : List Byte} (hok : blendFn fg bgs = .ok out) :
    out.length = bgs.length ∧ bgs.length * 4 = fg.length := by
  obtain ⟨-, heq⟩ | ⟨-, i, -, heq⟩ | ⟨hlen, vs, hs, heq⟩ := blendFn_cases fg bgs <;> cases heq.symm.trans hok
  exact ⟨blendGroups_length (by rw [scanDigits_length hs, hlen]), hlen⟩

/-- Settles O15: a success is the case of `decodeFn_cases` and `blendFn_cases` that packs the scanned digits. -/
theorem outputLengthsFollowTheInputs : Obligations.OutputLengthsFollowTheInputs := by
  refine ⟨fun h out => decodeFn_ok_length, fun fg bgs out hok => ?_⟩
  obtain ⟨hout, hlen⟩ := blendFn_ok_length hok
  omega

/-! ### The round trip (R109) -/

/-- The nibbles of a byte sequence in the order of the nibble-swapped hex form: slot A of each byte first. -/
def byteNibbles (s : List Byte) : List Nibble := s.flatMap fun b => [slotA b, slotB b]

theorem byteNibbles_length (s : List Byte) : (byteNibbles s).length = 2 * s.length := by
  simp [byteNibbles, List.length_flatMap, mul_comm]

theorem packPairs_byteNibbles (s : List Byte) : packPairs (byteNibbles s) = s := by
  induction s with
  | nil => rfl
  | cons b s ih => exact congrArg₂ List.cons (pack_slots b) ih

section
variable {hexchar : Nibble → Byte} (hchar : ∀ v, lookup (hexchar v) = some v)
include hchar

/-- Decoding characters that stand for nibbles packs these nibbles in pairs. -/
theorem decodeFn_map_hexchar {vs : List Nibble} (he : vs.length % 2 = 0) :
    decodeFn (vs.map hexchar) = .ok (packPairs vs) := by
  refine decodeFn_of_digits (by rwa [List.length_map]) ?_
  rw [List.map_map]
  exact List.map_congr_left fun v _ => hchar v

theorem decodeFn_encoded (s : List Byte) : decodeFn ((byteNibbles s).map hexchar) = .ok s := by
  rw [decodeFn_map_hexchar hchar (by rw [byteNibbles_length]; omega), packPairs_byteNibbles]

end

/-- Settles O10: the encoded sequence is the characters of `byteNibbles`, and one byte is a sequence of one. -/
theorem hexRoundTrip : Obligations.HexRoundTrip := by
  intro hexchar hchar
  refine ⟨fun b => decodeFn_encoded hchar [b], fun s => ?_⟩
  rw [← decodeFn_encoded hchar s, byteNibbles, List.map_flatMap]
  rfl

end Sys2Proof.Machine
end

section
/-! SUPPORT. The alpha compositor (spec/41_alpha_compositor.md): the lane's arithmetic and its laws (R130 to R133), the
background split (R134), and what blended decoding answers (R138, R139). -/

namespace Sys2Proof.Machine

/-! ### The lane's sum (R130, R131) -/

theorem nibble_toNat_le (v : Nibble) : v.toNat ≤ 15 := Nat.le_of_lt_succ v.isLt

/-- A product of a nibble and a weight. The weights of a lane are `a` and `15 - a`. -/
theorem nibble_mul_le (v : Nibble) {n : Nat} (hn : n ≤ 15) : v.toNat * n ≤ 225 :=
  Nat.mul_le_mul (nibble_toNat_le v) hn

/-- The weights of the two products add up to 15, so the sum is at most 15 * 15. -/
theorem laneSum_le (old c a : Nibble) : laneSum old c a ≤ 225 := by
  have ha := nibble_toNat_le a
  calc laneSum old c a
    _ ≤ 15 * (15 - a.toNat) + 15 * a.toNat :=
      add_le_add (Nat.mul_le_mul_right _ (nibble_toNat_le old)) (Nat.mul_le_mul_right _ (nibble_toNat_le c))
    _ = 225 := by omega

theorem laneSum_full_alpha (old c : Nibble) : laneSum old c 15#4 = 15 * c.toNat := by
  simp [laneSum, mul_comm]

theorem laneSum_zero_alpha (old c : Nibble) : laneSum old c 0#4 = 15 * old.toNat := by
  simp [laneSum, mul_comm]

theorem laneSum_self (x a : Nibble) : laneSum x x a = 15 * x.toNat := by
  rw [laneSum, ← mul_add, Nat.sub_add_cancel (nibble_toNat_le a), mul_comm]

theorem laneSum_mono {old old' c c' : Nibble} (a : Nibble) (hold : old.toNat ≤ old'.toNat) (hc : c.toNat ≤ c'.toNat) :
    laneSum old c a ≤ laneSum old' c' a :=
  add_le_add (Nat.mul_le_mul_right _ hold) (Nat.mul_le_mul_right _ hc)

/-! ### The lane (R130, R132, R133) -/

theorem laneSum_shift_le (old c a : Nibble) : laneSum old c a >>> 4 ≤ 14 := by
  have := laneSum_le old c a
  rw [Nat.shiftRight_eq_div_pow]
  omega

/-- The shifted sum is below 16, so neither the mask nor the width of the nibble changes it (R132). -/
theorem blendLane_toNat_eq_shift (old c a : Nibble) : (blendLane old c a).toNat = laneSum old c a >>> 4 := by
  have hlt : laneSum old c a >>> 4 < 2 ^ 4 := Nat.lt_succ_of_le (Nat.le_succ_of_le (laneSum_shift_le old c a))
  rw [blendLane, BitVec.toNat_ofNat, Nat.and_two_pow_sub_one_of_lt_two_pow (n := 4) hlt, Nat.mod_eq_of_lt hlt]

theorem blendLane_toNat (old c a : Nibble) : (blendLane old c a).toNat = laneSum old c a / 16 := by
  rw [blendLane_toNat_eq_shift, Nat.shiftRight_eq_div_pow]

theorem blendLane_toNat_le (old c a : Nibble) : (blendLane old c a).toNat ≤ 14 :=
  blendLane_toNat_eq_shift old c a ▸ laneSum_shift_le old c a

theorem blendLane_mono {old old' c c' : Nibble} (a : Nibble) (hold : old.toNat ≤ old'.toNat)
    (hc : c.toNat ≤ c'.toNat) : (blendLane old c a).toNat ≤ (blendLane old' c' a).toNat := by
  simpa only [blendLane_toNat] using Nat.div_le_div_right (laneSum_mono a hold hc)

/-- A nibble that a lane passes on alone loses 1, because the shift divides by 16 and not by 15 (R133). -/
theorem fifteen_mul_nibble_div (v : Nibble) : 15 * v.toNat / 16 = v.toNat - 1 := by
  have := nibble_toNat_le v
  omega

/-- Settles O11: the bounds are those of the two products and of their sum, and the lane is the shifted sum. -/
theorem blendLaneIsExact : Obligations.BlendLaneIsExact := by
  intro old c a
  refine ⟨rfl, ?formula, nibble_toNat_le a, nibble_mul_le old (Nat.sub_le _ _), nibble_mul_le c (nibble_toNat_le a),
    laneSum_le old c a, laneSum_shift_le old c a, blendLane_toNat_eq_shift old c a, ?notFifteen⟩
  case formula =>
    rw [← laneSum, ← blendLane_toNat, Nat.mod_eq_of_lt (blendLane old c a).isLt]
  case notFifteen =>
    intro h
    have := blendLane_toNat_le old c a
    rw [h] at this
    exact absurd this (by decide)

/-- Settles O12: each law is one of the sum, divided by 16. -/
theorem blendLaneLaws : Obligations.BlendLaneLaws := by
  refine ⟨fun old c => ?full, fun old c => ?zero, fun x a => ?equal, fun _ _ _ a h => blendLane_mono a h le_rfl,
    fun _ _ _ a h => blendLane_mono a le_rfl h, fun old c a => (laneSum_le old c a).trans_lt (by decide)⟩
  case full =>
    rw [blendLane_toNat, laneSum_full_alpha]
    exact ⟨rfl, fifteen_mul_nibble_div c⟩
  case zero =>
    rw [blendLane_toNat, laneSum_zero_alpha]
    exact ⟨rfl, fifteen_mul_nibble_div old⟩
  case equal => rw [blendLane_toNat, laneSum_self]

/-! ### The background split (R134) -/

theorem slotA_toNat (b : Byte) : (slotA b).toNat = b.toNat % 16 := BitVec.extractLsb'_toNat 0 4 b

theorem slotB_toNat (b : Byte) : (slotB b).toNat = b.toNat / 16 := by
  have := b.isLt
  rw [slotB, BitVec.extractLsb'_toNat, Nat.shiftRight_eq_div_pow, Nat.mod_eq_of_lt (by omega)]

/-- Settles O13, by the values of the two slots. -/
theorem backgroundSplitsIntoSlots : Obligations.BackgroundSplitsIntoSlots :=
  fun bg => ⟨slotA_toNat bg, slotB_toNat bg⟩

/-! ### Blended decoding (R138, R139) -/

section
variable {fg bgs : List Byte}

/-- The length checks as one: an odd length is no multiple of 4. -/
theorem blendFn_of_bad_length (h : fg.length % 4 ≠ 0 ∨ bgs.length * 4 ≠ fg.length) :
    blendFn fg bgs = .err .malformedLength 0#16 := by
  obtain ⟨-, heq⟩ | ⟨hl, -⟩ | ⟨hl, -⟩ := blendFn_cases fg bgs
  · exact heq
  · omega
  · omega

theorem blendFn_of_scan_error {i : Nat} (hl : bgs.length * 4 = fg.length) (hs : scanDigits 0 fg = .error i) :
    blendFn fg bgs = .err .invalidDigit (BitVec.ofNat 16 i) := by
  obtain ⟨hbad, -⟩ | ⟨-, j, hj, heq⟩ | ⟨-, vs, hvs, -⟩ := blendFn_cases fg bgs
  · omega
  · cases hs.symm.trans hj
    exact heq
  · cases hs.symm.trans hvs

theorem blendFn_of_scan_ok {vs : List Nibble} (hl : bgs.length * 4 = fg.length) (hs : scanDigits 0 fg = .ok vs) :
    blendFn fg bgs = .ok (blendGroups vs bgs) := by
  obtain ⟨hbad, -⟩ | ⟨-, j, hj, -⟩ | ⟨-, ws, hws, heq⟩ := blendFn_cases fg bgs
  · omega
  · cases hs.symm.trans hj
  · cases hs.symm.trans hws
    exact heq

end

/-- Settles O14: with matching lengths a first invalid character is where the scan stops, and without one the digits'
values are blended group by group. -/
theorem blendFnFollowsTheRule : Obligations.BlendFnFollowsTheRule := by
  intro fg bgs
  refine ⟨fun h => blendFn_of_bad_length (by omega), ?empty, fun h0 hb => blendFn_of_bad_length (by omega), ?invalid,
    ?valid⟩
  case empty =>
    intro hfg hbgs
    rw [List.eq_nil_of_length_eq_zero hfg, List.eq_nil_of_length_eq_zero hbgs]
    rfl
  case invalid =>
    intro hl i c hc hn hfirst
    exact blendFn_of_scan_error hl (scanDigits_error_iff.2 ⟨i, c, (Nat.zero_add i).symm, hc, hn, hfirst⟩)
  case valid =>
    intro hl hd
    obtain ⟨vs, hvs⟩ := exists_map_lookup hd
    have hs : scanDigits 0 fg = .ok vs := scanDigits_ok_iff.2 hvs
    have hok := blendFn_of_scan_ok hl hs
    refine ⟨blendGroups vs bgs, hok, (outputLengthsFollowTheInputs.2 _ _ _ hok).2, ?_⟩
    intro g ca caa cb cba bg a aa b ba hca hcaa hcb hcba hbg ha haa hb hba
    exact blendGroups_getElem? (scanDigits_getElem? hs hca ha) (scanDigits_getElem? hs hcaa haa)
      (scanDigits_getElem? hs hcb hb) (scanDigits_getElem? hs hcba hba) hbg

end Sys2Proof.Machine
end

section
/-! SUPPORT. Command control (spec/42_command_control.md): what decides an outcome (R168), the acceptance of DECODE
and BLEND (R162), and an illegal word (R163). -/

namespace Sys2Proof.Machine

/-! ### What decides an outcome (R168) -/

theorem State.hexCap_congr {s u : State} (h : s.capBlocks = u.capBlocks) : s.hexCap = u.hexCap := by
  rw [State.hexCap, h, State.hexCap]

theorem State.bgCap_congr {s u : State} (h : s.capBlocks = u.capBlocks) : s.bgCap = u.bgCap := by
  rw [State.bgCap, State.hexCap_congr h, State.bgCap]

theorem State.hexBytes_congr {s u : State} {n : Nat} (h : ∀ i < n, s.hexByte i = u.hexByte i) :
    s.hexBytes n = u.hexBytes n :=
  List.map_congr_left fun i hi => h i (List.mem_range.1 hi)

theorem State.bgBytes_congr {s u : State} {n : Nat} (h : ∀ g < n, s.bgByte g = u.bgByte g) :
    s.bgBytes n = u.bgBytes n :=
  List.map_congr_left fun g hg => h g (List.mem_range.1 hg)

section
variable {s u : State} (hcap : s.capBlocks = u.capBlocks) (hlen : s.hexLen = u.hexLen)
  (hhex : ∀ i < s.hexLen.toNat, i < s.hexCap → s.hexByte i = u.hexByte i)
include hcap hlen hhex

/-- The capacity check compares the same numbers; once it has passed, every byte that is read lies below HEX_CAP. -/
theorem State.decodeOutcome_congr : s.decodeOutcome = u.decodeOutcome := by
  rw [State.decodeOutcome, State.decodeOutcome, ← State.hexCap_congr hcap, ← hlen]
  refine ite_congr rfl (fun _ => rfl) fun hfit => ?_
  rw [State.hexBytes_congr fun i hi => hhex i hi (by omega)]

theorem State.blendOutcome_congr (hbgLen : s.bgLen = u.bgLen)
    (hbg : ∀ g < s.bgLen.toNat, g < s.bgCap → s.bgByte g = u.bgByte g) : s.blendOutcome = u.blendOutcome := by
  rw [State.blendOutcome, State.blendOutcome, ← State.hexCap_congr hcap, ← State.bgCap_congr hcap, ← hlen, ← hbgLen]
  refine ite_congr rfl (fun _ => rfl) fun hfit => ?_
  rw [State.hexBytes_congr fun i hi => hhex i hi (by omega), State.bgBytes_congr fun g hg => hbg g hg (by omega)]

end

/-- Settles O26, by the split over the pending command: the background is an input of BLEND only. -/
theorem outcomeDependsOnItsInputsOnly : Obligations.OutcomeDependsOnItsInputsOnly := by
  intro s u hop hcap hlen hhex hbg
  rw [State.pendingOutcome, State.pendingOutcome, ← hop]
  cases hpending : s.pendingOp with
  | none => rfl
  | decode => exact congrArg some (State.decodeOutcome_congr hcap hlen hhex)
  | blend =>
    obtain ⟨hbgLen, hbgBytes⟩ := hbg hpending
    exact congrArg some (State.blendOutcome_congr hcap hlen hhex hbgLen hbgBytes)

/-! ### The interrupt output (R191) -/

theorem State.irq_of_no_result {s : State} (hd : s.done = false) (he : s.err = false) : s.irq = false := by
  rw [State.irq, hd, he, Bool.or_false, Bool.and_false]

theorem State.irq_of_err {s : State} (he : s.err = true) : s.irq = s.ie := by
  rw [State.irq, he, Bool.or_true, Bool.and_true]

/-! ### Acceptance (R162) and illegal words (R163) -/

theorem exec_decode (s : State) : exec .decode s = s.onCommandWrite (State.accept .decode) := rfl

theorem exec_blend (s : State) : exec .blend s = s.onCommandWrite (State.accept .blend) := rfl

/-- An acceptance clears DONE and ERR, so no result is posted after it, whatever was posted before. -/
theorem State.accept_respond_irq (s : State) (op : PendingOp) (r : Response) :
    ((s.accept op).respond r).irq = false :=
  State.irq_of_no_result rfl rfl

/-- Settles O19: both commands are an acceptance written to an open port. -/
theorem acceptanceStartsTheCommand : Obligations.AcceptanceStartsTheCommand := by
  rintro s ⟨hb, hr⟩
  have hopen (op : PendingOp) : s.onCommandWrite (State.accept op) = .next ((s.accept op).respond .ack) :=
    State.onCommandWrite_open _ hb hr
  exact ⟨⟨_, (exec_decode s).trans (hopen .decode), rfl, s.accept_respond_irq .decode .ack⟩,
    ⟨_, (exec_blend s).trans (hopen .blend), rfl, s.accept_respond_irq .blend .ack⟩⟩

/-- Settles O20: the write of the word is `deliver_illegalWord`, and ERR = 1 after it. -/
theorem illegalCommandIsRecordedAtOnce : Obligations.IllegalCommandIsRecordedAtOnce := by
  intro s w e hs hd
  exact ⟨_, deliver_illegalWord hs hd, rfl, State.irq_of_err rfl⟩

end Sys2Proof.Machine
end

section
/-! SUPPORT. Errors and the interrupt (spec/60_exceptions.md): the order of the checks in the outcomes of DECODE and
BLEND (R189), what a turn does to IRQ, said once, and where IRQ rises and falls (R191, R192). -/

namespace Sys2Proof.Machine

/-! ### The order of the checks (R189) -/

section
variable {s : State} (hcap : s.hexLen.toNat ≤ s.hexCap)
include hcap

theorem State.decodeOutcome_of_fits : s.decodeOutcome = decodeFn (s.hexBytes s.hexLen.toNat) :=
  if_neg (by omega)

theorem State.blendOutcome_of_fits (hbg : s.bgLen.toNat ≤ s.bgCap) :
    s.blendOutcome = blendFn (s.hexBytes s.hexLen.toNat) (s.bgBytes s.bgLen.toNat) :=
  if_neg (by omega)

/-- A background of matching length fits, because BG_CAP is a quarter of HEX_CAP. -/
theorem State.blendOutcome_of_matching (hl : s.bgLen.toNat * 4 = s.hexLen.toNat) :
    s.blendOutcome = blendFn (s.hexBytes s.hexLen.toNat) (s.bgBytes s.bgLen.toNat) := by
  have := s.bgCap_four
  exact State.blendOutcome_of_fits hcap (by omega)

end

/-- The scan of HEX_MEM stops at the lowest index that holds no hex digit. -/
theorem State.scanDigits_hexBytes_error {s : State} {n i : Nat} (hi : i < n) (hn : lookup (s.hexByte i) = none)
    (hfirst : ∀ j < i, lookup (s.hexByte j) ≠ none) : scanDigits 0 (s.hexBytes n) = .error i := by
  refine scanDigits_error_iff.2 ⟨i, _, (Nat.zero_add i).symm, s.hexBytes_getElem? hi, hn, fun j hj d hd => ?_⟩
  cases (s.hexBytes_getElem? (hj.trans hi)).symm.trans hd
  exact hfirst j hj

theorem State.scanDigits_hexBytes_ok {s : State} {n : Nat} (hd : ∀ i < n, lookup (s.hexByte i) ≠ none) :
    ∃ vs, scanDigits 0 (s.hexBytes n) = .ok vs := by
  obtain ⟨vs, hvs⟩ : ∃ vs : List Nibble, (s.hexBytes n).map lookup = vs.map some := by
    refine exists_map_lookup fun c hc => ?_
    obtain ⟨i, hi, rfl⟩ := List.mem_map.1 hc
    exact hd i (List.mem_range.1 hi)
  exact ⟨vs, scanDigits_ok_iff.2 hvs⟩

/-- Settles O30: past the capacity check an outcome is the codec function's answer on the buffers' bytes, whose lengths
are the registers', and the scan of these bytes finds the lowest invalid digit. -/
theorem checksRunInOrder : Obligations.ChecksRunInOrder := by
  intro s
  refine ⟨fun h => if_pos h, ?decodeLength, ?decodeEmpty, fun h => if_pos h, ?blendLength, ?blendEmpty, ?invalid,
    ?valid⟩
  case decodeLength =>
    intro hcap hodd
    rw [State.decodeOutcome_of_fits hcap, decodeFn_of_odd (by rwa [s.hexBytes_length])]
  case decodeEmpty =>
    intro h0
    rw [State.decodeOutcome_of_fits (by omega), h0]
    rfl
  case blendLength =>
    intro hcap hbg hbad
    rw [State.blendOutcome_of_fits hcap hbg]
    apply blendFn_of_bad_length
    rw [s.hexBytes_length, s.bgBytes_length]
    omega
  case blendEmpty =>
    intro h0 hb0
    rw [State.blendOutcome_of_fits (by omega) (by omega), h0, hb0]
    rfl
  case invalid =>
    intro i hi hcap hn hfirst
    have hscan := State.scanDigits_hexBytes_error hi hn hfirst
    refine ⟨fun he => ?_, fun hl => ?_⟩
    · rw [State.decodeOutcome_of_fits hcap, decodeFn_of_scan_error (by rwa [s.hexBytes_length]) hscan]
    · rw [State.blendOutcome_of_matching hcap hl,
        blendFn_of_scan_error (by rwa [s.hexBytes_length, s.bgBytes_length]) hscan]
  case valid =>
    intro hcap hd
    obtain ⟨vs, hscan⟩ := State.scanDigits_hexBytes_ok hd
    refine ⟨fun he => ⟨packPairs vs, ?_⟩, fun hl => ⟨blendGroups vs (s.bgBytes s.bgLen.toNat), ?_⟩⟩
    · rw [State.decodeOutcome_of_fits hcap,
        decodeFn_of_digits (by rwa [s.hexBytes_length]) (scanDigits_ok_iff.1 hscan)]
    · rw [State.blendOutcome_of_matching hcap hl,
        blendFn_of_scan_ok (by rwa [s.hexBytes_length, s.bgBytes_length]) hscan]

/-! ### IRQ after each turn (R191, R192) -/

theorem State.irq_eq_true_iff {s : State} : s.irq = true ↔ s.ie = true ∧ (s.done || s.err) = true := by
  rw [State.irq, Bool.and_eq_true]

theorem State.setHexWord_irq (s : State) (i : Nat) (v : Word) : (s.setHexWord i v).irq = s.irq := by
  simp [State.irq, State.setHexWord]

theorem State.setBgWord_irq (s : State) (i : Nat) (v : Word) : (s.setBgWord i v).irq = s.irq := by
  simp [State.irq, State.setBgWord]

/-- A completion posts a result either way. -/
theorem State.commit_irq (s : State) (r : CommandOutcome) : (s.commit r).irq = s.ie := by
  cases r with
  | ok out => exact Bool.and_true s.ie
  | err kind pos => exact State.irq_of_err (s := s.commit (.err kind pos)) rfl

theorem exec_ack (s : State) : exec .ack s = s.onCommandWrite State.clearResult := rfl

theorem State.clearResult_respond_irq (s : State) (r : Response) : (s.clearResult.respond r).irq = false :=
  State.irq_of_no_result rfl rfl

theorem State.assertReset_irq (s : State) : s.assertReset.irq = false :=
  State.irq_of_no_result rfl rfl

theorem State.powerOn_irq (s : State) : s.powerOn.irq = false :=
  State.irq_of_no_result rfl rfl

/-- Every command clears DONE and ERR, an ACK as well as an acceptance. -/
theorem exec_irq {s t : State} {i : Instr} (hs : s.TakesCommands) (h : exec i s = .next t) : t.irq = false := by
  obtain ⟨hb, hr⟩ := hs
  obtain ⟨effect, hexec, hclear⟩ :
      ∃ effect, exec i s = s.onCommandWrite effect ∧ ((effect s).respond .ack).irq = false := by
    cases i with
    | ack => exact ⟨_, exec_ack s, s.clearResult_respond_irq .ack⟩
    | decode => exact ⟨_, exec_decode s, s.accept_respond_irq .decode .ack⟩
    | blend => exact ⟨_, exec_blend s, s.accept_respond_irq .blend .ack⟩
  rw [hexec, State.onCommandWrite_open effect hb hr] at h
  cases h
  exact hclear

/-- R30: a WR32 of CTRL stores bit 0 in IE, whether the core is busy or not. -/
theorem deliver_wr32_ctrl {s : State} (v : Word) (hr : s.rst = false) :
    deliver (.host (.wr32 (regOffset .ctrl) v)) s = .next ((s.setIe (v.getLsbD 0)).respond .ack) := by
  have hw : s.write32 (regOffset .ctrl) v = some (s.setIe (v.getLsbD 0)) := by
    rw [State.write32, if_neg (by simp [hr, regOffset_aligned]), s.locate_register]
    rfl
  exact deliver_wr32 (by decide) hw

theorem State.setIe_respond_irq (s : State) (b : Bool) (r : Response) :
    ((s.setIe b).respond r).irq = (b && (s.done || s.err)) := rfl

/-- The command of a WR32 of CMD is what the decoder reads from its word. -/
theorem Event.command_wr32_cmd (w : Word) :
    (Event.host (.wr32 (regOffset .cmd) w)).command = (decodeCommand w).toOption := by
  have hw : BitVec.ofNat 32 (w.toNat % 2 ^ 32) = w := by
    rw [Nat.mod_eq_of_lt w.isLt, BitVec.ofNat_toNat, BitVec.setWidth_eq]
  rw [Event.command, if_pos rfl, decodeTableWord, if_pos le_rfl, hw]
  cases decodeCommand w <;> rfl

/-- Everything a turn `e` can do to IRQ in `s`, with `irq` the level after it. -/
inductive IrqEffect (s : State) (e : Event) (irq : Bool) : Prop where
  /-- IRQ keeps its level. -/
  | keeps (h : irq = s.irq)
  /-- A result is posted, by a completion or by an illegal command word. -/
  | posts (hturn : (e = .engine ∧ s.pendingOp ≠ .none) ∨ (e.writesRegister .cmd = true ∧ e.command = none))
      (h : irq = s.ie)
  /-- CTRL is written. -/
  | control (v : Word) (hturn : e = .host (.wr32 (regOffset .ctrl) v)) (h : irq = (v.getLsbD 0 && (s.done || s.err)))
  /-- The result is cleared, by a command or by a reset. -/
  | clears (hturn : e.command ≠ none ∨ e.resets = true) (h : irq = false)

theorem IrqEffect.command {s : State} {w : Word} {i : Instr} {irq : Bool} (hd : decodeCommand w = .ok i)
    (h : irq = false) : IrqEffect s (.host (.wr32 (regOffset .cmd) w)) irq :=
  .clears (.inl (by rw [Event.command_wr32_cmd, hd]; exact Option.some_ne_none i)) h

theorem Takes.irqEffect {s t : State} {e : Event} (h : Takes s e t) : IrqEffect s e t.irq := by
  cases h with
  | complete r hr hp ho => exact .posts (.inl ⟨rfl, hp⟩) (s.commit_irq r)
  | illegal w d hd hr hb => exact .posts (.inr ⟨rfl, by rw [Event.command_wr32_cmd, hd]; rfl⟩) (State.irq_of_err rfl)
  | control v hr => exact .control v rfl (s.setIe_respond_irq _ _)
  | ack w hd hr hb => exact .command hd (s.clearResult_respond_irq _)
  | decode w hd hr hb => exact .command hd (s.accept_respond_irq _ _)
  | blend w hd hr hb => exact .command hd (s.accept_respond_irq _ _)
  | assertReset => exact .clears (.inr rfl) s.assertReset_irq
  | powerOn => exact .clears (.inr rfl) s.powerOn_irq
  | hexWord a v i hr hb hi ha => exact .keeps (s.setHexWord_irq i v)
  | bgWord a v i hr hb hi ha => exact .keeps (s.setBgWord_irq i v)
  | _ => exact .keeps rfl

/-- A step takes the turn `State.turn` names, with that turn off the list. -/
theorem step_takes_turn {s t : State} (h : step s = .next t) : ∃ es, Takes (s.withEvents es) s.turn t := by
  obtain ⟨hs, ht⟩ | ⟨e, es, hs, ht⟩ := step_takes h
  · have hturn : s.turn = .engine := by rw [State.turn, hs]
    exact ⟨s.events, by rwa [hturn]⟩
  · have hturn : s.turn = e := by rw [State.turn, hs]
    exact ⟨es, by rwa [hturn]⟩

/-- Taking the turn off the list changes neither IRQ nor what it is made of. -/
theorem step_irqEffect {s t : State} (h : step s = .next t) : IrqEffect s s.turn t.irq := by
  obtain ⟨es, ht⟩ := step_takes_turn h
  cases ht.irqEffect with
  | keeps h => exact .keeps h
  | posts hturn h => exact .posts hturn h
  | control v hturn h => exact .control v hturn h
  | clears hturn h => exact .clears hturn h

/-- Settles O32: of the effects in `step_irqEffect` a rise leaves the posted result and the write of CTRL. -/
theorem irqRisesWithAPostedResult : Obligations.IrqRisesWithAPostedResult := by
  refine ⟨fun s => rfl, ?completion, ?illegal, ?enable, ?rise⟩
  case completion =>
    intro s hr hp
    obtain ⟨hr' | hp', -⟩ | ⟨-, -, r, -, he⟩ := s.engineTurn_cases
    · exact nomatch hr.symm.trans hr'
    · exact absurd hp' hp
    · rw [he, s.commit_irq]
  case illegal =>
    intro s w e hs hd
    exact ⟨_, deliver_illegalWord hs hd, State.irq_of_err rfl⟩
  case enable =>
    intro s v hr hv
    exact ⟨_, deliver_wr32_ctrl v hr, by rw [s.setIe_respond_irq, hv, Bool.true_and]⟩
  case rise =>
    intro s t h hlow hhigh
    cases step_irqEffect h with
    | keeps hirq => exact nomatch hlow.symm.trans (hirq.symm.trans hhigh)
    | posts hturn hirq => exact hturn.imp_right .inl
    | control v hturn hirq => exact .inr (.inr (by rw [hturn]; rfl))
    | clears hturn hirq => exact nomatch hirq.symm.trans hhigh

/-- Settles O33: of the effects in `step_irqEffect` a fall leaves the write of 0 to IE, a command and a reset. -/
theorem irqFallsOnlyWhenCleared : Obligations.IrqFallsOnlyWhenCleared := by
  refine ⟨fun s i t => exec_irq, ?disable, fun s => ⟨s.assertReset_irq, s.powerOn_irq⟩, ?illegal, ?fall⟩
  case disable =>
    intro s v hr hv
    exact ⟨_, deliver_wr32_ctrl v hr, by rw [s.setIe_respond_irq, hv, Bool.false_and]⟩
  case illegal =>
    intro s w e hs hd hirq
    obtain ⟨hie, -⟩ := State.irq_eq_true_iff.1 hirq
    exact ⟨_, deliver_illegalWord hs hd, (State.irq_of_err rfl).trans hie⟩
  case fall =>
    intro s t h hhigh hlow
    obtain ⟨hie, hposted⟩ := State.irq_eq_true_iff.1 hhigh
    cases step_irqEffect h with
    | keeps hirq => exact nomatch hlow.symm.trans (hirq.trans hhigh)
    | posts hturn hirq => exact nomatch hlow.symm.trans (hirq.trans hie)
    | control v hturn hirq =>
      rw [hlow, hposted, Bool.and_true] at hirq
      exact .inr (.inl ⟨v, hturn, hirq.symm⟩)
    | clears hturn hirq => exact hturn.imp_right .inr

end Sys2Proof.Machine
end

section
/-! SUPPORT. Reset and hazards (spec/70_reset_and_hazards.md): nothing happens while RST is asserted (R211), and the
busy interlock (R216): what the registers hold during a command, and which reads do not depend on BUSY. -/

namespace Sys2Proof.Machine

/-! ### RST asserted (R211) -/

theorem State.engineTurn_of_rst {s : State} (hr : s.rst = true) : s.engineTurn = s :=
  if_pos hr

/-- Settles O50: an asserted RST is the first case of the busfaults. -/
theorem resetTakesPrecedence : Obligations.ResetTakesPrecedence :=
  ⟨fun s => ⟨s.assertReset_pendingOp, s.assertReset_busy, s.assertReset_rst⟩,
    fun _ hr => ⟨fun _ => deliver_busfault (.inl hr), State.engineTurn_of_rst hr⟩⟩

/-! ### The registers during a command -/

section
variable {s : State} (hi : s.Inv) (hb : s.busy = true)
include hi hb

/-- A reset ends the command in progress, so RST is not asserted during one. -/
theorem State.Inv.rst_of_busy : s.rst = false := by
  refine Bool.eq_false_iff.2 fun hr => ?_
  have hidle : s.busy = false := by rw [hi.quiet hr, State.resetRegisters_busy]
  exact nomatch hb.symm.trans hidle

theorem State.Inv.done_of_busy : s.done = false :=
  Bool.eq_false_iff.2 fun hd => hi.atMostOne.1 ⟨hb, hd⟩

theorem State.Inv.err_of_busy : s.err = false := by
  obtain ⟨-, hbusyErr, -⟩ := hi.atMostOne
  exact Bool.eq_false_iff.2 fun he => hbusyErr ⟨hb, he⟩

theorem State.Inv.errCode_of_busy : s.errCode = 0#4 := by
  obtain ⟨hcode, -⟩ := hi.errorCode
  by_contra hne
  exact nomatch (hi.err_of_busy hb).symm.trans (hcode.1 hne)

theorem State.Inv.errPos_of_busy : s.errPos = 0#16 := by
  obtain ⟨hpos, -⟩ := hi.position
  exact hpos (by rw [hi.errCode_of_busy hb]; decide)

theorem State.Inv.outLen_of_busy : s.outLen = 0#16 :=
  hi.outputLength.1 (.inl hb)

theorem State.Inv.statusWord_of_busy : s.statusWord = 0x00000001#32 := by
  rw [State.statusWord, hb, hi.done_of_busy hb, hi.err_of_busy hb, hi.errCode_of_busy hb]
  rfl

end

theorem State.readRegister_of_ne_cmd (s : State) {r : Reg} (hr : r ≠ .cmd) : ∃ w, s.readRegister r = some w := by
  cases r
  case cmd => exact absurd rfl hr
  all_goals exact ⟨_, rfl⟩

/-! ### Reads that do not depend on BUSY -/

theorem deliver_rd8_hex {s : State} {i : Nat} (hr : s.rst = false) (hi : i < s.hexCap) :
    deliver (.host (.rd8 (BitVec.ofNat 16 (0x4000 + i)))) s = .next { s with response := .data8 (s.hexByte i) } := by
  have hcap := s.hexCap_bounds
  refine deliver_rd8 ?_
  rw [State.read8_open _ hr, s.byteAt_hex (half_toNat_of_lt (by omega)) hi]

theorem deliver_rd8_bg {s : State} {i : Nat} (hr : s.rst = false) (hi : i < s.bgCap) :
    deliver (.host (.rd8 (BitVec.ofNat 16 (0x8000 + i)))) s = .next { s with response := .data8 (s.bgByte i) } := by
  have hcap := s.hexCap_bounds
  have hbg := s.bgCap_four
  refine deliver_rd8 ?_
  rw [State.read8_open _ hr, s.byteAt_bg (half_toNat_of_lt (by omega)) hi]

/-- The address map depends on the capacities only. -/
theorem State.locate_idle (s : State) (a : Half) : State.locate { s with busy := false } a = s.locate a := rfl

/-- Only the bytes of OUT_MEM are hidden during a command. -/
theorem State.byteAt_idle (s : State) {a : Half} (h : ¬InOutWindow a.toNat) :
    State.byteAt { s with busy := false } a = s.byteAt a := by
  rw [State.byteAt, State.byteAt, s.locate_idle]
  have hcap := s.hexCap_bounds
  have hout := s.outCap_two
  rcases s.locate_cases a with
      ⟨_, -, hl⟩ | ⟨_, -, hl⟩ | ⟨_, -, -, hl⟩ | ⟨_, -, -, hl⟩ | ⟨i, hi, ha, -⟩ | ⟨hl, -⟩
  case inr.inr.inr.inr.inl => exact absurd (show InOutWindow a.toNat by omega) h
  all_goals simp only [hl, State.hexByte, State.bgByte]

theorem State.wordAt_congr {s u : State} {a : Half}
    (h : ∀ k < 4, u.byteAt (a + BitVec.ofNat 16 k) = s.byteAt (a + BitVec.ofNat 16 k)) : u.wordAt a = s.wordAt a := by
  have h0 : u.byteAt a = s.byteAt a := by simpa using h 0 (by omega)
  have h1 : u.byteAt (a + 1) = s.byteAt (a + 1) := h 1 (by omega)
  have h2 : u.byteAt (a + 2) = s.byteAt (a + 2) := h 2 (by omega)
  have h3 : u.byteAt (a + 3) = s.byteAt (a + 3) := h 3 (by omega)
  rw [State.wordAt, State.wordAt, h0, h1, h2, h3]

/-- The OUT_MEM window starts and ends at a multiple of 4, so an aligned word outside it has no byte in it. -/
theorem State.wordAt_idle (s : State) {a : Half} (ha : a.toNat % 4 = 0) (h : ¬InOutWindow a.toNat) :
    State.wordAt { s with busy := false } a = s.wordAt a := by
  have hlt := a.isLt
  refine State.wordAt_congr fun k hk => s.byteAt_idle ?_
  rw [offset_add k (by omega)]
  omega

theorem State.read8_idle (s : State) {a : Half} (h : ¬InOutWindow a.toNat) :
    State.read8 { s with busy := false } a = s.read8 a := by
  rw [State.read8, State.read8, s.byteAt_idle h]

theorem State.read32_idle (s : State) {a : Half} (hreg : 0x0100 ≤ a.toNat) (h : ¬InOutWindow a.toNat) :
    State.read32 { s with busy := false } a = s.read32 a := by
  by_cases hg : s.rst = true ∨ a.toNat % 4 ≠ 0
  · rw [State.read32, State.read32, if_pos hg, if_pos hg]
  · obtain ⟨hr, ha⟩ := not_or.1 hg
    have hr : s.rst = false := Bool.eq_false_iff.2 hr
    have ha : a.toNat % 4 = 0 := not_not.1 ha
    rw [State.read32_window hr ha hreg, State.read32_window (s := { s with busy := false }) hr ha hreg,
      s.wordAt_idle ha h]

/-- What the port answers to an RD8 depends on the data only. -/
theorem answerRead8_uniform (o : Option Byte) : ∃ r, ∀ s : State, s.answerRead8 o = { s with response := r } := by
  cases o <;> exact ⟨_, fun _ => rfl⟩

/-- What the port answers to an RD32 depends on the data only. -/
theorem answerRead32_uniform (o : Option Word) : ∃ r, ∀ s : State, s.answerRead32 o = { s with response := r } := by
  cases o <;> exact ⟨_, fun _ => rfl⟩

/-- R216: a read beyond the register block and outside the OUT_MEM window has one answer, busy or idle. -/
theorem deliver_read_idle (s : State) {x : Txn} (hx : x.isWrite = false) (hreg : 0x0100 ≤ x.offset)
    (hout : ¬InOutWindow x.offset) :
    ∃ r, deliver (.host x) s = .next { s with response := r } ∧
      deliver (.host x) { s with busy := false } = .next { s with busy := false, response := r } := by
  cases x with
  | rd8 a =>
    obtain ⟨r, hr⟩ := answerRead8_uniform (s.read8 a)
    refine ⟨r, ?_, ?_⟩
    · rw [deliver, transact, hr]
    · rw [deliver, transact, s.read8_idle hout, hr]
  | rd32 a =>
    obtain ⟨r, hr⟩ := answerRead32_uniform (s.read32 a)
    refine ⟨r, ?_, ?_⟩
    · rw [deliver, transact, hr]
    · rw [deliver, transact, s.read32_idle hreg hout, hr]
  | wr8 a v => exact nomatch hx
  | wr32 a v => exact nomatch hx

/-- Settles O46: the forbidden transactions are case 7 of R57, the invariant gives RST and what the status registers
hold, and the windows are read as `deliver_read_idle` says. -/
theorem busyInterlock : Obligations.BusyInterlock := by
  intro s hi hb
  have hr := hi.rst_of_busy hb
  refine ⟨fun x hx => deliver_busfault (Txn.busfaults_of_forbiddenWhileBusy hb hx), ?registers, ?errPos, ?outLen,
    congrArg some (hi.statusWord_of_busy hb), fun v => deliver_wr32_ctrl v hr, fun i => deliver_rd8_hex hr,
    fun i => deliver_rd8_bg hr, (romWindowReadsTheRom s hr).1, ?windows⟩
  case registers =>
    intro r hcmd
    obtain ⟨w, hw⟩ := s.readRegister_of_ne_cmd hcmd
    exact ⟨w, hw, deliver_rd32_register hr hw⟩
  case errPos =>
    rw [State.readRegister, hi.errPos_of_busy hb]
    rfl
  case outLen =>
    rw [State.readRegister, hi.outLen_of_busy hb]
    rfl
  case windows =>
    intro x hx hwindow
    exact deliver_read_idle s hx (by omega) (by omega)

end Sys2Proof.Machine
end

section
/-! SUPPORT. Decode and encode agree both ways (spec/30_encoding.md R81 to R83), and the write of a command's word to
CMD (spec/42_command_control.md R160): it runs the command, it is turned away while the port is closed, and ACK's
effect (R164). -/

namespace Sys2Proof.Machine

/-! ### Decode and encode (R82, R83) -/

theorem decodeCommand_encode (i : Instr) : decodeCommand (encode i) = .ok i := by
  cases i <;> rfl

/-- Each of the three legal words is the word of a command. -/
theorem exists_encode_of_wellFormed {w : Word} (h : WordWellFormed w) : ∃ i, w = encode i := by
  rcases (wordWellFormed_iff w).1 h with rfl | rfl | rfl
  · exact ⟨.ack, rfl⟩
  · exact ⟨.decode, rfl⟩
  · exact ⟨.blend, rfl⟩

theorem wordWellFormed_of_decodeCommand {w : Word} {i : Instr} (h : decodeCommand w = .ok i) : WordWellFormed w := by
  by_contra hw
  obtain ⟨e, he⟩ := (decodeCommand_error_iff w).2 hw
  exact nomatch h.symm.trans he

theorem eq_encode_of_decodeCommand {w : Word} {i : Instr} (h : decodeCommand w = .ok i) : w = encode i := by
  obtain ⟨j, rfl⟩ := exists_encode_of_wellFormed (wordWellFormed_of_decodeCommand h)
  cases (decodeCommand_encode j).symm.trans h
  rfl

/-- Settles O1: a word that decodes is legal, so it is the word of some command, which is the one it decodes to. -/
theorem decodeEncodeAgree : Obligations.DecodeEncodeAgree :=
  ⟨decodeCommand_encode, fun _ _ => eq_encode_of_decodeCommand⟩

/-- A table word of 32 bits goes to the decoder whole. -/
theorem decodeTableWord_toNat (w : Word) : decodeTableWord 32 w.toNat = (decodeCommand w).toOption := by
  rw [← Event.command_wr32_cmd, Event.command, if_pos rfl]

/-- Settles O4: the decoder's answer on each of the five words. -/
theorem opcodeTableWordsDecode : Obligations.OpcodeTableWordsDecode :=
  ⟨decodeTableWord_toNat 0x00000000#32, decodeTableWord_toNat 0x00000001#32, decodeTableWord_toNat 0x00000002#32,
    decodeTableWord_toNat 0x00000101#32, decodeTableWord_toNat 0x80000002#32⟩

/-! ### The write of a command's word (R160) -/

/-- The write of a word that decodes to a command is `exec` of that command. -/
theorem deliver_command {s : State} {w : Word} {i : Instr} (hd : decodeCommand w = .ok i) :
    deliver (.host (.wr32 (regOffset .cmd) w)) s = exec i s := by
  rw [deliver, transact, if_pos rfl, issue, hd]

/-- The write of a word that decodes to no command is `execIllegal`. -/
theorem deliver_noCommand {s : State} {w : Word} {e : DecodeError} (hd : decodeCommand w = .error e) :
    deliver (.host (.wr32 (regOffset .cmd) w)) s = execIllegal s := by
  rw [deliver, transact, if_pos rfl, issue, hd]

theorem deliver_cmd_closed {s : State} (hs : s.busy = true ∨ s.rst = true) (w : Word) :
    deliver (.host (.wr32 (regOffset .cmd) w)) s = .next { s with response := .busfaultWrite } :=
  deliver_busfault ((Txn.busfaults_cmd_iff s w).2 hs)

/-- Settles O21: the write of any word is a busfault, and `exec` of a command is the write of its word. -/
theorem commandsAreTurnedAwayWhileBusy : Obligations.CommandsAreTurnedAwayWhileBusy := by
  refine fun s hs => ⟨fun i => ?_, deliver_cmd_closed hs⟩
  rw [← deliver_command (decodeCommand_encode i), deliver_cmd_closed hs]

/-- Settles O18: ACK written to an open port clears the result, so none is posted after it. -/
theorem ackClearsTheResult : Obligations.AckClearsTheResult := by
  rintro s ⟨hb, hr⟩
  have hack : exec .ack s = .next (s.clearResult.respond .ack) := State.onCommandWrite_open _ hb hr
  exact ⟨_, hack, rfl, s.clearResult_respond_irq .ack⟩

/-! ### A step (R66) -/

theorem step_of_turn {s : State} {e : Event} {es : List Event} (he : s.events = e :: es) :
    step s = deliver e (s.withEvents es) := by
  rw [step, advance, he]

theorem step_of_no_turn {s : State} (he : s.events = []) : step s = .next s.engineTurn := by
  rw [step, advance, he]

/-- Placing the word of a command at the front and taking it off again leaves the other turns as they were. -/
theorem step_withFetchWord (s : State) (i : Instr) : step (s.withFetchWord 32 (encode i).toNat) = exec i s := by
  have hw : BitVec.ofNat 32 ((encode i).toNat % 2 ^ 32) = encode i := by
    rw [Nat.mod_eq_of_lt (encode i).isLt, BitVec.ofNat_toNat, BitVec.setWidth_eq]
  rw [State.withFetchWord, hw, step_of_turn rfl]
  exact deliver_command (decodeCommand_encode i)

/-- Settles O59: a step is the delivery of the next turn, and a write of CMD runs what its word decodes to. -/
theorem stepRunsTheDecodedCommand : Obligations.StepRunsTheDecodedCommand :=
  ⟨fun _ _ _ _ he hd => (step_of_turn he).trans (deliver_command hd),
    fun _ _ _ _ he hd => (step_of_turn he).trans (deliver_noCommand hd),
    fun _ _ _ => step_of_turn, fun _ => step_of_no_turn, step_withFetchWord⟩

/-- Settles O58: with no turn left the engine's turn is a next state, and every other turn is `deliver_next`. -/
theorem nothingStopsTheMachine : Obligations.NothingStopsTheMachine := by
  intro s
  cases he : s.events with
  | nil => exact ⟨_, step_of_no_turn he⟩
  | cons e es =>
    rw [step_of_turn he]
    exact deliver_next e (s.withEvents es)

end Sys2Proof.Machine
end

section
/-! SUPPORT. What a turn does to STATUS, ERR_POS, OUT_LEN and PENDING_OP, said once, and from it the machine's invariant
(spec/10_state.md R23, R32, R33, R36, R39 to R41, R180, R211): every step keeps it. -/

namespace Sys2Proof.Machine

/-! ### The status of a state -/

/-- `t` shows the status of `s`: the flags, the error and its position, OUT_LEN and PENDING_OP. -/
structure State.SameStatus (s t : State) : Prop where
  busy : t.busy = s.busy
  done : t.done = s.done
  err : t.err = s.err
  errCode : t.errCode = s.errCode
  errPos : t.errPos = s.errPos
  outLen : t.outLen = s.outLen
  pendingOp : t.pendingOp = s.pendingOp

theorem State.SameStatus.refl (s : State) : s.SameStatus s := by
  constructor <;> rfl

theorem State.SameStatus.trans {s t u : State} (h : s.SameStatus t) (k : t.SameStatus u) : s.SameStatus u :=
  ⟨k.busy.trans h.busy, k.done.trans h.done, k.err.trans h.err, k.errCode.trans h.errCode, k.errPos.trans h.errPos,
    k.outLen.trans h.outLen, k.pendingOp.trans h.pendingOp⟩

theorem State.SameStatus.statusWord {s t : State} (h : s.SameStatus t) : t.statusWord = s.statusWord := by
  rw [State.statusWord, State.statusWord, h.busy, h.done, h.err, h.errCode]

theorem State.sameStatus_setHexWord (s : State) (i : Nat) (v : Word) (r : Response) :
    s.SameStatus ((s.setHexWord i v).respond r) := by
  rw [State.setHexWord_eq]
  constructor <;> rfl

theorem State.sameStatus_setBgWord (s : State) (i : Nat) (v : Word) (r : Response) :
    s.SameStatus ((s.setBgWord i v).respond r) := by
  rw [State.setBgWord_eq]
  constructor <;> rfl

/-- Everything a turn `e` can do to the status of `s`, with `t` the state after it. -/
inductive StatusEffect (s : State) (e : Event) (t : State) : Prop where
  /-- The status stays. -/
  | keeps (h : s.SameStatus t)
  /-- An ACK clears the result (R164). -/
  | clears (hw : e.writesRegister .cmd = true) (hc : e.command ≠ none) (hb : s.busy = false)
      (h : s.clearResult.SameStatus t)
  /-- A DECODE or BLEND is accepted (R162). -/
  | accepts (op : PendingOp) (hop : op ≠ .none) (hw : e.writesRegister .cmd = true) (hc : e.command ≠ none)
      (h : (s.accept op).SameStatus t)
  /-- An illegal command word is recorded (R163). -/
  | illegal (hw : e.writesRegister .cmd = true) (hb : s.busy = false)
      (h : (s.enterError .illegalCommand 0#16).SameStatus t)
  /-- The engine completes the pending command (R166). -/
  | completes (r : CommandOutcome) (he : e = .engine) (hp : s.pendingOp ≠ .none) (ho : s.pendingOutcome = some r)
      (h : (s.commit r).SameStatus t)
  /-- The core is reset (R210, R213). -/
  | resets (he : e.resets = true) (h : s.resetRegisters.SameStatus t)

theorem Event.writesRegister_cmd (w : Word) : (Event.host (.wr32 (regOffset .cmd) w)).writesRegister .cmd = true :=
  rfl

theorem Event.command_ne_none {w : Word} {i : Instr} (hd : decodeCommand w = .ok i) :
    (Event.host (.wr32 (regOffset .cmd) w)).command ≠ none := by
  rw [Event.command_wr32_cmd, hd]
  exact Option.some_ne_none i

theorem Takes.statusEffect {s t : State} {e : Event} (h : Takes s e t) : StatusEffect s e t := by
  cases h with
  | ack w hd hr hb => exact .clears (Event.writesRegister_cmd w) (Event.command_ne_none hd) hb (by constructor <;> rfl)
  | decode w hd hr hb =>
    exact .accepts .decode nofun (Event.writesRegister_cmd w) (Event.command_ne_none hd) (by constructor <;> rfl)
  | blend w hd hr hb =>
    exact .accepts .blend nofun (Event.writesRegister_cmd w) (Event.command_ne_none hd) (by constructor <;> rfl)
  | illegal w d hd hr hb => exact .illegal (Event.writesRegister_cmd w) hb (by constructor <;> rfl)
  | complete r hr hp ho => exact .completes r rfl hp ho (.refl _)
  | assertReset => exact .resets rfl (by constructor <;> rfl)
  | powerOn => exact .resets rfl (by constructor <;> rfl)
  | hexWord a v i hr hb hi ha => exact .keeps (s.sameStatus_setHexWord i v .ack)
  | bgWord a v i hr hb hi ha => exact .keeps (s.sameStatus_setBgWord i v .ack)
  | _ => exact .keeps (by constructor <;> rfl)

/-- R9: no turn changes the parameter. -/
theorem Takes.capBlocks_eq {s t : State} {e : Event} (h : Takes s e t) : t.capBlocks = s.capBlocks := by
  cases h with
  | complete r hr hp ho => cases r <;> rfl
  | hexWord a v i hr hb hi ha => simp [State.setHexWord]
  | bgWord a v i hr hb hi ha => simp [State.setBgWord]
  | _ => rfl

/-! ### PENDING_OP (R23) -/

theorem StatusEffect.pendingWhileBusy {s t : State} {e : Event} (h : StatusEffect s e t) (hs : s.PendingWhileBusy) :
    t.PendingWhileBusy := by
  rw [State.PendingWhileBusy] at hs ⊢
  cases h with
  | keeps h => rwa [h.pendingOp, h.busy]
  | clears hw hc hb h => rwa [h.pendingOp, h.busy]
  | accepts op hop hw hc h =>
    rw [h.pendingOp, h.busy]
    exact iff_of_true hop rfl
  | illegal hw hb h => rwa [h.pendingOp, h.busy]
  | completes r he hp ho h =>
    rw [h.pendingOp, h.busy]
    cases r <;> simp [State.commit]
  | resets he h =>
    rw [h.pendingOp, h.busy]
    exact iff_of_false (not_not.2 rfl) nofun

/-! ### The flags, the error and OUT_LEN (R32, R33, R36, R180) -/

/-- The invariant's clauses on the flags, the error fields and OUT_LEN. -/
structure State.ResultLegal (s : State) : Prop where
  atMostOne : s.AtMostOneStatus
  errorCode : s.ErrorCodeLegal
  position : s.PositionLegal
  outputLength : s.OutputLengthLegal

theorem State.ResultLegal.of_sameStatus {s t : State} (hs : s.ResultLegal) (h : s.SameStatus t)
    (hcap : t.capBlocks = s.capBlocks) : t.ResultLegal where
  atMostOne := by
    rw [State.AtMostOneStatus, h.busy, h.done, h.err]
    exact hs.atMostOne
  errorCode := by
    rw [State.ErrorCodeLegal, h.errCode, h.err]
    exact hs.errorCode
  position := by
    rw [State.PositionLegal, h.errCode, h.errPos, State.hexCap_congr hcap]
    exact hs.position
  outputLength := by
    rw [State.OutputLengthLegal, h.busy, h.err, h.outLen, State.outCap, State.hexCap_congr hcap]
    exact hs.outputLength

/-- R9: position 0 is below every capacity. -/
theorem State.hexCap_pos (s : State) : 0 < s.hexCap :=
  Nat.succ_pos _

/-- With DONE and ERR clear the result is legal if OUT_LEN is, and BUSY may be set or not. -/
theorem State.resultLegal_of_noResult {s : State} (hd : s.done = false) (he : s.err = false) (hc : s.errCode = 0#4)
    (hp : s.errPos = 0#16) (hbusy : s.busy = true → s.outLen = 0#16) (hlen : s.outLen.toNat ≤ s.outCap) :
    s.ResultLegal where
  atMostOne := by simp [State.AtMostOneStatus, hd, he]
  errorCode := by simp [State.ErrorCodeLegal, hc, he]
  position := by
    rw [State.PositionLegal, hp]
    exact ⟨fun _ => rfl, s.hexCap_pos⟩
  outputLength := ⟨fun h => hbusy (h.resolve_right (by simp [he])), hlen⟩

/-- R180: each kind of error has a code of 1 to 4. -/
theorem errorCode_legal (kind : ErrKind) : errorCode kind ≠ 0#4 ∧ (errorCode kind).toNat ≤ 4 := by
  cases kind <;> decide

theorem State.resultLegal_enterError {s : State} {kind : ErrKind} {pos : Half} (hb : s.busy = false)
    (hzero : kind ≠ .invalidDigit → pos = 0#16) (hpos : pos.toNat < s.hexCap) :
    (s.enterError kind pos).ResultLegal where
  atMostOne := by simp [State.AtMostOneStatus, hb]
  errorCode := by
    obtain ⟨hne, hle⟩ := errorCode_legal kind
    exact ⟨iff_of_true hne rfl, hle⟩
  position := ⟨fun hcode => hzero fun hkind => hcode (congrArg Sys2Proof.Machine.errorCode hkind), hpos⟩
  outputLength := ⟨fun _ => rfl, Nat.zero_le _⟩

/-- R10: no capacity exceeds a 16-bit length. -/
theorem State.outCap_lt (s : State) : s.outCap < 2 ^ 16 := by
  have := s.hexCap_bounds
  have := s.outCap_two
  omega

theorem State.toNat_outLen_of_fits {s : State} {n : Nat} (h : n ≤ s.outCap) : (BitVec.ofNat 16 n).toNat = n := by
  have := s.outCap_lt
  exact half_toNat_of_lt (by omega)

/-- The engine's commit of a legal outcome, one case per kind of outcome. -/
theorem State.resultLegal_commit {s : State} {r : CommandOutcome} (hr : OutcomeLegal s r) :
    (s.commit r).ResultLegal := by
  cases r with
  | ok out =>
    have hlen : (s.commit (.ok out)).outLen.toNat = out.length := State.toNat_outLen_of_fits (s := s) hr
    exact
      { atMostOne := by simp [State.AtMostOneStatus, State.commit]
        errorCode := by simp [State.ErrorCodeLegal, State.commit]
        position := ⟨fun _ => rfl, s.hexCap_pos⟩
        outputLength := ⟨by simp [State.commit], hlen.trans_le hr⟩ }
  | err kind pos =>
    obtain ⟨-, hzero, hpos⟩ := hr
    exact State.resultLegal_enterError (s := s.goIdle) rfl hzero hpos

theorem StatusEffect.resultLegal {s t : State} {e : Event} (h : StatusEffect s e t)
    (hcap : t.capBlocks = s.capBlocks) (hs : s.ResultLegal) : t.ResultLegal := by
  cases h with
  | keeps h => exact hs.of_sameStatus h hcap
  | clears hw hc hb h =>
    obtain ⟨-, hlen⟩ := hs.outputLength
    have hlegal : s.clearResult.ResultLegal :=
      State.resultLegal_of_noResult rfl rfl rfl rfl (fun hbusy => nomatch hb.symm.trans hbusy) hlen
    exact hlegal.of_sameStatus h hcap
  | accepts op hop hw hc h =>
    have hlegal : (s.accept op).ResultLegal :=
      State.resultLegal_of_noResult rfl rfl rfl rfl (fun _ => rfl) (Nat.zero_le _)
    exact hlegal.of_sameStatus h hcap
  | illegal hw hb h =>
    have hlegal : (s.enterError .illegalCommand 0#16).ResultLegal :=
      State.resultLegal_enterError hb (fun _ => rfl) s.hexCap_pos
    exact hlegal.of_sameStatus h hcap
  | completes r he hp ho h =>
    have hcommit : (s.commit r).capBlocks = s.capBlocks := by cases r <;> rfl
    exact (State.resultLegal_commit (State.pendingOutcome_legal ho)).of_sameStatus h (hcap.trans hcommit.symm)
  | resets he h =>
    have hlegal : s.resetRegisters.ResultLegal :=
      State.resultLegal_of_noResult rfl rfl rfl rfl (fun _ => rfl) (Nat.zero_le _)
    exact hlegal.of_sameStatus h hcap

/-! ### RST asserted (R210, R211) -/

/-- The registers hold their reset values where resetting them changes nothing. -/
theorem State.quietInReset_iff {s : State} : s.QuietInReset ↔ (s.rst = true → s.resetRegisters = s) := by
  refine forall_congr' fun hr => ?_
  have heq : { s.resetRegisters with rst := true } = s.resetRegisters := by rw [← hr]; rfl
  rw [heq, eq_comm]

theorem State.quietInReset_of_rst {s : State} (hr : s.rst = false) : s.QuietInReset :=
  fun h => nomatch hr.symm.trans h

/-- While RST is asserted a turn answers a busfault, does nothing, or resets. -/
theorem Takes.quietInReset {s t : State} {e : Event} (h : Takes s e t) (hs : s.QuietInReset) : t.QuietInReset := by
  cases h with
  | answer x r =>
    rw [State.quietInReset_iff] at hs ⊢
    exact fun hr => congrArg (State.respond r) (hs hr)
  | idle h => exact hs
  | complete r hr hp ho => exact State.quietInReset_of_rst (by cases r <;> exact hr)
  | assertReset => exact fun _ => rfl
  | releaseReset => exact State.quietInReset_of_rst rfl
  | powerOn => exact State.quietInReset_iff.2 fun _ => rfl
  | hexWord a v i hr hb hi ha => exact State.quietInReset_of_rst (by simpa [State.setHexWord] using hr)
  | bgWord a v i hr hb hi ha => exact State.quietInReset_of_rst (by simpa [State.setBgWord] using hr)
  | _ => exact State.quietInReset_of_rst ‹s.rst = false›

/-! ### The buffers (R39 to R41) -/

theorem Buffer.within_of_empty {b : Buffer} (cap : Nat) (h : b.cells = []) : b.Within cap := by
  rw [Buffer.Within, h]
  exact ⟨List.Pairwise.nil, nofun⟩

theorem Buffer.Within.write {b : Buffer} {cap i : Nat} (h : b.Within cap) (hi : i < cap) (v : Byte) :
    (b.write i v).Within cap := by
  obtain ⟨hwf, hcells⟩ := h
  refine ⟨Memory.wf_set hwf i v, fun c hc => ?_⟩
  rcases Memory.mem_set hc with rfl | hc
  · exact hi
  · exact hcells c hc

theorem Buffer.Within.writeFrom {b : Buffer} {cap i : Nat} {vs : List Byte} (h : b.Within cap)
    (hi : i + vs.length ≤ cap) : (b.writeFrom i vs).Within cap := by
  induction vs generalizing b i with
  | nil => exact h
  | cons v vs ih =>
    rw [List.length_cons] at hi
    exact ih (h.write (by omega) v) (by omega)

theorem Takes.buffersLegal {s t : State} {e : Event} (h : Takes s e t) (hs : s.BuffersLegal) : t.BuffersLegal := by
  obtain ⟨hhex, hbg, hout⟩ := hs
  cases h with
  | hexByte a v i hr hb hi ha => exact ⟨hhex.write hi v, hbg, hout⟩
  | bgByte a v i hr hb hi ha => exact ⟨hhex, hbg.write hi v, hout⟩
  | hexWord a v i hr hb hi ha =>
    rw [State.setHexWord_eq]
    exact ⟨hhex.writeFrom hi, hbg, hout⟩
  | bgWord a v i hr hb hi ha =>
    rw [State.setBgWord_eq]
    exact ⟨hhex, hbg.writeFrom hi, hout⟩
  | complete r hr hp ho =>
    have hlegal := State.pendingOutcome_legal ho
    cases r with
    | ok out => exact ⟨hhex, hbg, hout.writeFrom ((Nat.zero_add _).trans_le hlegal)⟩
    | err kind pos => exact ⟨hhex, hbg, hout⟩
  | assertReset =>
    refine ⟨hhex, hbg, ?_⟩
    rw [State.assertReset_outMem]
    split
    · exact Buffer.within_of_empty _ rfl
    · exact hout
  | powerOn => exact ⟨Buffer.within_of_empty _ rfl, Buffer.within_of_empty _ rfl, Buffer.within_of_empty _ rfl⟩
  | _ => exact ⟨hhex, hbg, hout⟩

/-! ### The invariant -/

theorem State.Inv.resultLegal {s : State} (h : s.Inv) : s.ResultLegal :=
  ⟨h.atMostOne, h.errorCode, h.position, h.outputLength⟩

theorem State.inv_of_parts {s : State} (hresult : s.ResultLegal) (hpending : s.PendingWhileBusy)
    (hquiet : s.QuietInReset) (hbuffers : s.BuffersLegal) : s.Inv :=
  ⟨hresult.atMostOne, hresult.errorCode, hpending, hresult.position, hresult.outputLength, hquiet, hbuffers⟩

theorem Takes.inv {s t : State} {e : Event} (h : Takes s e t) (hs : s.Inv) : t.Inv :=
  State.inv_of_parts (h.statusEffect.resultLegal h.capBlocks_eq hs.resultLegal)
    (h.statusEffect.pendingWhileBusy hs.pending) (h.quietInReset hs.quiet) (h.buffersLegal hs.buffers)

/-- The turns to come are no part of the invariant. -/
theorem State.Inv.withEvents {s : State} (h : s.Inv) (es : List Event) : (s.withEvents es).Inv := by
  refine State.inv_of_parts ⟨h.atMostOne, h.errorCode, h.position, h.outputLength⟩ h.pending ?_ h.buffers
  rw [State.quietInReset_iff]
  exact fun hr => congrArg (State.withEvents es) (State.quietInReset_iff.1 h.quiet hr)

/-- Settles O56: a step is one turn of `Takes`, and each part of the invariant is kept by every turn. -/
theorem everyStepKeepsTheInvariant : Obligations.EveryStepKeepsTheInvariant := by
  intro s t hs h
  obtain ⟨es, ht⟩ := step_takes_turn h
  exact ht.inv (hs.withEvents es)

/-- Settles O57: after reset no result is posted, no command is pending, and the buffers hold no written byte. -/
theorem invariantHoldsAtReset : Obligations.InvariantHoldsAtReset :=
  State.inv_of_parts (State.resultLegal_of_noResult rfl rfl rfl rfl (fun _ => rfl) (Nat.zero_le _))
    (iff_of_false (not_not.2 rfl) nofun) (State.quietInReset_of_rst rfl)
    ⟨Buffer.within_of_empty _ rfl, Buffer.within_of_empty _ rfl, Buffer.within_of_empty _ rfl⟩

end Sys2Proof.Machine
end

section
/-! SUPPORT. What a turn does to the inputs, to OUT_MEM and to the error fields: the lengths and the input buffers
change by host writes and resets only (spec/10_state.md section 4, spec/70_reset_and_hazards.md R219), OUT_MEM by a
completion, a reset while busy or a power-on, STATUS by commands, completions and resets (R37), and an error entry
exposes no output (spec/60_exceptions.md R193). -/

namespace Sys2Proof.Machine

/-! ### The inputs (R39, R40, R219) -/

/-- `t` holds the inputs of `s`: the two lengths and the two input buffers. -/
structure State.SameInputs (s t : State) : Prop where
  hexLen : t.hexLen = s.hexLen
  bgLen : t.bgLen = s.bgLen
  hexMem : t.hexMem = s.hexMem
  bgMem : t.bgMem = s.bgMem

/-- Everything a turn `e` can do to the inputs of `s`, with `t` the state after it. -/
inductive InputEffect (s : State) (e : Event) (t : State) : Prop where
  /-- The inputs stay. -/
  | keeps (h : s.SameInputs t)
  /-- A write of HEX_LEN. -/
  | hexLength (v : Half) (hw : e.writesRegister .hexLen = true) (h : (s.setHexLen v).SameInputs t)
  /-- A write of BG_LEN. -/
  | bgLength (v : Half) (hw : e.writesRegister .bgLen = true) (h : (s.setBgLen v).SameInputs t)
  /-- A write in the HEX_MEM window. -/
  | hexWrite (m : Buffer) (hw : e.writesIn InHexWindow) (h : State.SameInputs { s with hexMem := m } t)
  /-- A write in the BG_MEM window. -/
  | bgWrite (m : Buffer) (hw : e.writesIn InBgWindow) (h : State.SameInputs { s with bgMem := m } t)
  /-- RST is asserted. -/
  | resets (he : e = .assertReset) (h : s.assertReset.SameInputs t)
  /-- The core is powered on. -/
  | powers (he : e = .powerOn) (h : s.powerOn.SameInputs t)

theorem State.inHexWindow (s : State) {a : Half} {i : Nat} (hi : i < s.hexCap) (ha : a.toNat = 0x4000 + i) :
    InHexWindow a.toNat := by
  have := s.hexCap_bounds
  omega

theorem State.inBgWindow (s : State) {a : Half} {i : Nat} (hi : i < s.bgCap) (ha : a.toNat = 0x8000 + i) :
    InBgWindow a.toNat := by
  have := s.hexCap_bounds
  have := s.bgCap_four
  omega

theorem Takes.inputEffect {s t : State} {e : Event} (h : Takes s e t) : InputEffect s e t := by
  cases h with
  | hexLength v hr hb => exact .hexLength _ rfl (by constructor <;> rfl)
  | bgLength v hr hb => exact .bgLength _ rfl (by constructor <;> rfl)
  | hexByte a v i hr hb hi ha =>
    exact .hexWrite (s.hexMem.write i v) ⟨rfl, s.inHexWindow hi ha⟩ (by constructor <;> rfl)
  | bgByte a v i hr hb hi ha =>
    exact .bgWrite (s.bgMem.write i v) ⟨rfl, s.inBgWindow hi ha⟩ (by constructor <;> rfl)
  | hexWord a v i hr hb hi ha =>
    rw [State.setHexWord_eq]
    exact .hexWrite (s.hexMem.writeFrom i (wordBytes v)) ⟨rfl, s.inHexWindow (by omega) ha⟩
      (by constructor <;> rfl)
  | bgWord a v i hr hb hi ha =>
    rw [State.setBgWord_eq]
    exact .bgWrite (s.bgMem.writeFrom i (wordBytes v)) ⟨rfl, s.inBgWindow (by omega) ha⟩
      (by constructor <;> rfl)
  | complete r hr hp ho => exact .keeps (by cases r <;> constructor <;> rfl)
  | assertReset => exact .resets rfl (by constructor <;> rfl)
  | powerOn => exact .powers rfl (by constructor <;> rfl)
  | _ => exact .keeps (by constructor <;> rfl)

/-- Settles O52: of the effects in `Takes.inputEffect` a changed length leaves the write of its register and the
resets. -/
theorem lengthsPersist : Obligations.LengthsPersist := by
  intro s t h
  obtain ⟨es, ht⟩ := step_takes_turn h
  constructor
  · intro hne
    cases ht.inputEffect with
    | hexLength v hw h => exact .inl hw
    | resets he h | powers he h => exact .inr (by rw [he]; rfl)
    | keeps h | bgLength v hw h | hexWrite m hw h | bgWrite m hw h => exact absurd h.hexLen hne
  · intro hne
    cases ht.inputEffect with
    | bgLength v hw h => exact .inl hw
    | resets he h | powers he h => exact .inr (by rw [he]; rfl)
    | keeps h | hexLength v hw h | hexWrite m hw h | bgWrite m hw h => exact absurd h.bgLen hne

/-- Settles O53: of the effects in `Takes.inputEffect` a changed buffer leaves the write in its window and the
power-on. -/
theorem inputBuffersChangeByHostWritesOnly : Obligations.InputBuffersChangeByHostWritesOnly := by
  intro s t h
  obtain ⟨es, ht⟩ := step_takes_turn h
  constructor
  · intro hne
    cases ht.inputEffect with
    | hexWrite m hw h => exact .inl hw
    | powers he h => exact .inr he
    | keeps h | hexLength v hw h | bgLength v hw h | bgWrite m hw h | resets he h => exact absurd h.hexMem hne
  · intro hne
    cases ht.inputEffect with
    | bgWrite m hw h => exact .inl hw
    | powers he h => exact .inr he
    | keeps h | hexLength v hw h | bgLength v hw h | hexWrite m hw h | resets he h => exact absurd h.bgMem hne

/-! ### OUT_MEM (R41, R212, R213) -/

theorem Takes.outMem_eq {s t : State} {e : Event} (h : Takes s e t) :
    t.outMem = s.outMem ∨ (e = .engine ∧ s.pendingOp ≠ .none ∧ t.done = true) ∨
      (e = .assertReset ∧ s.busy = true) ∨ e = .powerOn := by
  cases h with
  | complete r hr hp ho =>
    cases r with
    | ok out => exact .inr (.inl ⟨rfl, hp, rfl⟩)
    | err kind pos => exact .inl rfl
  | assertReset =>
    cases hb : s.busy with
    | false => exact .inl (by rw [s.assertReset_outMem, hb]; rfl)
    | true => exact .inr (.inr (.inl ⟨rfl, rfl⟩))
  | powerOn => exact .inr (.inr (.inr rfl))
  | hexWord a v i hr hb hi ha => exact .inl (by rw [State.setHexWord_eq]; rfl)
  | bgWord a v i hr hb hi ha => exact .inl (by rw [State.setBgWord_eq]; rfl)
  | _ => exact .inl rfl

/-- Settles O54, by `Takes.outMem_eq` for the turn of the step. -/
theorem outputBufferChangesByCompletionOnly : Obligations.OutputBufferChangesByCompletionOnly := by
  intro s t h hne
  obtain ⟨es, ht⟩ := step_takes_turn h
  exact ht.outMem_eq.resolve_left hne

/-! ### STATUS (R37) -/

/-- Settles O34: of the effects in `Takes.statusEffect` only `keeps` leaves STATUS to a turn that is no command, no
completion and no reset; and an illegal word or a completion posts a result, where a command or a reset clears it. -/
theorem onlyCommandsChangeTheFlags : Obligations.OnlyCommandsChangeTheFlags := by
  constructor
  · intro s t h hne
    obtain ⟨es, ht⟩ := step_takes_turn h
    cases ht.statusEffect with
    | keeps h => exact absurd h.statusWord hne
    | clears hw hc hb h | accepts op hop hw hc h | illegal hw hb h => exact .inl hw
    | completes r he hp ho h => exact .inr (.inl ⟨he, hp⟩)
    | resets he h => exact .inr (.inr he)
  · intro s t h hposted hdone herr
    obtain ⟨es, ht⟩ := step_takes_turn h
    cases ht.statusEffect with
    | keeps h =>
      obtain hd | he := hposted
      · exact nomatch hd.symm.trans (h.done.symm.trans hdone)
      · exact nomatch he.symm.trans (h.err.symm.trans herr)
    | clears hw hc hb h | accepts op hop hw hc h => exact .inl hc
    | illegal hw hb h => exact nomatch h.err.symm.trans herr
    | completes r he hp ho h =>
      cases r with
      | ok out => exact nomatch h.done.symm.trans hdone
      | err kind pos => exact nomatch h.err.symm.trans herr
    | resets he h => exact .inr he

/-! ### Error entries (R193) -/

/-- A turn after which ERR is newly set recorded an illegal word or completed a command in error. -/
theorem Takes.errorEntry {s t : State} {e : Event} (h : Takes s e t) (hs : s.err = false) (ht : t.err = true) :
    ∃ kind pos, (s.busy = false ∧ t = (s.enterError kind pos).respond .ack) ∨ t = s.commit (.err kind pos) := by
  cases h with
  | illegal w d hd hr hb => exact ⟨_, _, .inl ⟨hb, rfl⟩⟩
  | complete r hr hp ho =>
    cases r with
    | ok out => exact nomatch ht
    | err kind pos => exact ⟨kind, pos, .inr rfl⟩
  | ack | decode | blend | assertReset | powerOn => exact nomatch ht
  | hexWord a v i hr hb hi ha => exact nomatch hs.symm.trans ((s.sameStatus_setHexWord i v .ack).err.symm.trans ht)
  | bgWord a v i hr hb hi ha => exact nomatch hs.symm.trans ((s.sameStatus_setBgWord i v .ack).err.symm.trans ht)
  | _ => exact nomatch hs.symm.trans ht

/-- R180: the codes of the four kinds. -/
theorem errorCode_cases (kind : ErrKind) :
    errorCode kind = 1#4 ∨ errorCode kind = 2#4 ∨ errorCode kind = 3#4 ∨ errorCode kind = 4#4 := by
  cases kind <;> decide

/-- Settles O31: both ways to enter an error change the status only, and both leave the core idle. -/
theorem errorEntryExposesNoOutput : Obligations.ErrorEntryExposesNoOutput := by
  intro s t h hs ht
  obtain ⟨es, htakes⟩ := step_takes_turn h
  obtain ⟨kind, pos, ⟨hb, rfl⟩ | rfl⟩ := htakes.errorEntry hs ht
  · exact ⟨rfl, rfl, hb, rfl, rfl, rfl, rfl, rfl, rfl, errorCode_cases kind⟩
  · exact ⟨rfl, rfl, rfl, rfl, rfl, rfl, rfl, rfl, rfl, errorCode_cases kind⟩

end Sys2Proof.Machine
end

section
/-! SUPPORT. The engine (spec/42_command_control.md R165, R166): when it has a step, what a completion leaves, and
DECODE and BLEND from the write of their word to their completion (spec/40_hex_decoder.md R106,
spec/41_alpha_compositor.md R140). -/

namespace Sys2Proof.Machine

/-! ### The completion step (R166) -/

theorem State.engineTurn_of_pending {s : State} {r : CommandOutcome} (hr : s.rst = false)
    (ho : s.pendingOutcome = some r) : s.engineTurn = s.commit r := by
  obtain ⟨hidle, -⟩ | ⟨-, -, q, hq, he⟩ := s.engineTurn_cases
  · obtain hr' | hp := hidle
    · exact nomatch hr.symm.trans hr'
    · exact nomatch (State.pendingOutcome_eq_none.2 hp).symm.trans ho
  · cases ho.symm.trans hq
    exact he

theorem State.pendingOutcome_of_decode {s : State} (h : s.pendingOp = .decode) :
    s.pendingOutcome = some s.decodeOutcome := by
  rw [State.pendingOutcome, h]

theorem State.pendingOutcome_of_blend {s : State} (h : s.pendingOp = .blend) :
    s.pendingOutcome = some s.blendOutcome := by
  rw [State.pendingOutcome, h]

/-- Every output byte after a loop of R166 from index 0: the bytes written, then the old ones. -/
theorem State.read_out_writeFrom (s : State) (out : List Byte) (k : Nat) :
    Buffer.read .out (s.outMem.writeFrom 0 out) k = out.getD k (s.outByte k) := by
  have h := Buffer.read_writeFrom .out s.outMem out 0 k
  rwa [Nat.zero_add] at h

/-- A commit of a success, byte by byte. -/
theorem State.commit_ok_outByte (s : State) (out : List Byte) (k : Nat) :
    (s.commit (.ok out)).outByte k = out.getD k (s.outByte k) :=
  s.read_out_writeFrom out k

/-- A legal output fits in OUT_MEM, so OUT_LEN holds its length unreduced. -/
theorem State.commit_ok_outLen {s : State} {out : List Byte} (h : OutcomeLegal s (.ok out)) :
    (s.commit (.ok out)).outLen.toNat = out.length :=
  State.toNat_outLen_of_fits (s := s) h

/-- Settles O24: the engine commits the pending command's outcome, which `State.commit` spells out. -/
theorem engineCommitsTheOutcome : Obligations.EngineCommitsTheOutcome := by
  intro s r hr hpending
  have ho : s.pendingOutcome = some r := by
    obtain ⟨hop, rfl⟩ | ⟨hop, rfl⟩ := hpending
    · exact State.pendingOutcome_of_decode hop
    · exact State.pendingOutcome_of_blend hop
  rw [State.engineTurn_of_pending hr ho]
  constructor
  · rintro out rfl
    exact ⟨⟨s.outMem.writeFrom 0 out, rfl⟩, State.commit_ok_outLen (State.pendingOutcome_legal ho),
      s.commit_ok_outByte out⟩
  · rintro kind pos rfl
    rfl

/-- Settles O25: a completion changes PENDING_OP, and without one the engine's turn leaves the state as it is. -/
theorem engineStepsExactlyWhenPending : Obligations.EngineStepsExactlyWhenPending := by
  intro s
  obtain ⟨hidle, he⟩ | ⟨hr, hp, r, -, he⟩ := s.engineTurn_cases
  · refine iff_of_false (not_not.2 he) fun ⟨hr, hp⟩ => ?_
    exact hidle.elim (fun hr' => nomatch hr.symm.trans hr') hp
  · refine iff_of_true (fun heq => hp ?_) ⟨hr, hp⟩
    rw [← heq, he]
    cases r <;> rfl

/-- Settles O55: a success writes its own bytes only, and OUT_LEN is their number; an error writes none. -/
theorem staleOutputKeepsItsValues : Obligations.StaleOutputKeepsItsValues := by
  intro s
  obtain ⟨-, he⟩ | ⟨-, -, r, ho, he⟩ := s.engineTurn_cases
  · rw [he]
    exact ⟨fun _ _ => rfl, fun _ => rfl⟩
  · rw [he]
    cases r with
    | ok out =>
      refine ⟨fun k hk => ?_, nofun⟩
      rw [State.commit_ok_outLen (State.pendingOutcome_legal ho)] at hk
      rw [s.commit_ok_outByte, List.getD_eq_default _ _ hk]
    | err kind pos => exact ⟨fun _ _ => rfl, fun _ => rfl⟩

/-! ### From the write of the word to the completion -/

/-- The state after the acceptance of `op`, with the acknowledgement of its word (R160, R162). -/
def State.issued (op : PendingOp) (s : State) : State := (s.accept op).respond .ack

theorem exec_decode_open {s : State} (hs : s.TakesCommands) : exec .decode s = .next (s.issued .decode) := by
  obtain ⟨hb, hr⟩ := hs
  exact State.onCommandWrite_open _ hb hr

theorem exec_blend_open {s : State} (hs : s.TakesCommands) : exec .blend s = .next (s.issued .blend) := by
  obtain ⟨hb, hr⟩ := hs
  exact State.onCommandWrite_open _ hb hr

/-- The acceptance changes nothing that the outcome depends on. -/
theorem State.engineTurn_issued_decode {s : State} (hr : s.rst = false) :
    (s.issued .decode).engineTurn = (s.issued .decode).commit s.decodeOutcome :=
  State.engineTurn_of_pending hr (State.pendingOutcome_of_decode rfl)

theorem State.engineTurn_issued_blend {s : State} (hr : s.rst = false) :
    (s.issued .blend).engineTurn = (s.issued .blend).commit s.blendOutcome :=
  State.engineTurn_of_pending hr (State.pendingOutcome_of_blend rfl)

theorem State.commit_issued_err (s : State) (op : PendingOp) (kind : ErrKind) (pos : Half) :
    (s.issued op).commit (.err kind pos) = s.endedInError (errorCode kind) pos := rfl

theorem State.commit_issued_ok (s : State) (op : PendingOp) (out : List Byte) :
    (s.issued op).commit (.ok out) = s.endedWell (s.outMem.writeFrom 0 out) out.length := rfl

/-- What a command that ended well with the output `out` has left in OUT_MEM. -/
theorem State.endedWell_outByte (s : State) (out : List Byte) (len k : Nat) :
    (s.endedWell (s.outMem.writeFrom 0 out) len).outByte k = out.getD k (s.outByte k) :=
  s.read_out_writeFrom out k

theorem State.endedWell_outByte_of_some {s : State} {out : List Byte} {k : Nat} {b : Byte} (h : out[k]? = some b)
    (len : Nat) : (s.endedWell (s.outMem.writeFrom 0 out) len).outByte k = b := by
  rw [s.endedWell_outByte, List.getD_eq_getElem?_getD, h, Option.getD_some]

theorem State.endedWell_outByte_beyond {s : State} {out : List Byte} {k : Nat} (h : out.length ≤ k) (len : Nat) :
    (s.endedWell (s.outMem.writeFrom 0 out) len).outByte k = s.outByte k := by
  rw [s.endedWell_outByte, List.getD_eq_default _ _ h]

/-! ### DECODE (R106) -/

/-- The characters of HEX_MEM are hex digits where its bytes are. -/
theorem State.hexBytes_digits {s : State} {n : Nat} (hd : ∀ i < n, lookup (s.hexByte i) ≠ none) :
    ∀ c ∈ s.hexBytes n, lookup c ≠ none := by
  intro c hc
  obtain ⟨i, hi, rfl⟩ := List.mem_map.1 hc
  exact hd i (List.mem_range.1 hi)

/-- The outcome of DECODE on digits: half as many bytes, each the packed digits of its pair (R105). -/
theorem State.decodeOutcome_of_digits {s : State} (hcap : s.hexLen.toNat ≤ s.hexCap) (he : s.hexLen.toNat % 2 = 0)
    (hd : ∀ i < s.hexLen.toNat, lookup (s.hexByte i) ≠ none) :
    ∃ out, s.decodeOutcome = .ok out ∧ out.length = s.hexLen.toNat / 2 ∧
      ∀ k < s.hexLen.toNat / 2, ∀ lo hi, lookup (s.hexByte (2 * k)) = some lo →
        lookup (s.hexByte (2 * k + 1)) = some hi → out[k]? = some (pack lo hi) := by
  obtain ⟨-, -, -, hvalid⟩ := decodeFnFollowsTheRule (s.hexBytes s.hexLen.toNat)
  rw [s.hexBytes_length] at hvalid
  obtain ⟨out, hok, hlen, hbytes⟩ := hvalid he (State.hexBytes_digits hd)
  refine ⟨out, (State.decodeOutcome_of_fits hcap).trans hok, hlen, fun k hk lo hi hlo hhi => ?_⟩
  exact hbytes k _ _ lo hi (s.hexBytes_getElem? (by omega)) (s.hexBytes_getElem? (by omega)) hlo hhi

/-- Settles O22: the engine commits the outcome of DECODE, which is an error in the order of the checks
(`checksRunInOrder`) or `State.decodeOutcome_of_digits`. -/
theorem decodeRunsToItsResult : Obligations.DecodeRunsToItsResult := by
  intro s hs
  refine ⟨deliver_command rfl, s.issued .decode, exec_decode_open hs, rfl, ?_⟩
  obtain ⟨-, hr⟩ := hs
  obtain ⟨hcapacity, hlength, -, -, -, -, hinvalid, -⟩ := checksRunInOrder s
  rw [State.engineTurn_issued_decode hr]
  refine ⟨fun hcap => ?_, fun hcap hodd => ?_, fun hcap he i hi hn hfirst => ?_, fun hcap he hd => ?_⟩
  · rw [hcapacity hcap, s.commit_issued_err]
    rfl
  · rw [hlength hcap hodd, s.commit_issued_err]
    rfl
  · obtain ⟨hdecode, -⟩ := hinvalid i hi hcap hn hfirst
    rw [hdecode he, s.commit_issued_err]
    rfl
  · obtain ⟨out, hok, hlen, hbytes⟩ := State.decodeOutcome_of_digits hcap he hd
    rw [hok, s.commit_issued_ok]
    refine ⟨⟨_, by rw [hlen]⟩, fun k hk lo hi hlo hhi => ?_, fun k hk => ?_⟩
    · exact State.endedWell_outByte_of_some (hbytes k hk lo hi hlo hhi) _
    · exact State.endedWell_outByte_beyond (by omega) _

/-! ### BLEND (R140) -/

/-- The outcome of BLEND on digits: as many bytes as the background, each blended from its group (R138). -/
theorem State.blendOutcome_of_digits {s : State} (hcap : s.hexLen.toNat ≤ s.hexCap)
    (hl : s.bgLen.toNat * 4 = s.hexLen.toNat) (hd : ∀ i < s.hexLen.toNat, lookup (s.hexByte i) ≠ none) :
    ∃ out, s.blendOutcome = .ok out ∧ out.length = s.hexLen.toNat / 4 ∧
      ∀ g < s.hexLen.toNat / 4, ∀ a aa b ba, lookup (s.hexByte (4 * g)) = some a →
        lookup (s.hexByte (4 * g + 1)) = some aa → lookup (s.hexByte (4 * g + 2)) = some b →
        lookup (s.hexByte (4 * g + 3)) = some ba →
        out[g]? = some
          (pack (blendLane ((s.bgByte g).extractLsb' 0 4) a aa) (blendLane ((s.bgByte g).extractLsb' 4 4) b ba)) := by
  obtain ⟨-, -, -, -, hvalid⟩ := blendFnFollowsTheRule (s.hexBytes s.hexLen.toNat) (s.bgBytes s.bgLen.toNat)
  rw [s.hexBytes_length, s.bgBytes_length] at hvalid
  obtain ⟨out, hok, hlen, hbytes⟩ := hvalid hl (State.hexBytes_digits hd)
  refine ⟨out, (State.blendOutcome_of_matching hcap hl).trans hok, hlen, fun g hg a aa b ba ha haa hb hba => ?_⟩
  exact hbytes g _ _ _ _ _ a aa b ba (s.hexBytes_getElem? (by omega)) (s.hexBytes_getElem? (by omega))
    (s.hexBytes_getElem? (by omega)) (s.hexBytes_getElem? (by omega)) (s.bgBytes_getElem? (by omega)) ha haa hb hba

/-- Settles O23: the engine commits the outcome of BLEND, which is an error in the order of the checks
(`checksRunInOrder`) or `State.blendOutcome_of_digits`. -/
theorem blendRunsToItsResult : Obligations.BlendRunsToItsResult := by
  intro s hs
  refine ⟨deliver_command rfl, s.issued .blend, exec_blend_open hs, rfl, ?_⟩
  obtain ⟨-, hr⟩ := hs
  obtain ⟨-, -, -, hcapacity, hlength, -, hinvalid, -⟩ := checksRunInOrder s
  rw [State.engineTurn_issued_blend hr]
  refine ⟨fun hcap => ?_, fun hcap hbg hbad => ?_, fun hcap hl i hi hn hfirst => ?_, fun hcap hl hd => ?_⟩
  · rw [hcapacity hcap, s.commit_issued_err]
    rfl
  · rw [hlength hcap hbg hbad, s.commit_issued_err]
    rfl
  · obtain ⟨-, hblend⟩ := hinvalid i hi hcap hn hfirst
    rw [hblend hl, s.commit_issued_err]
    rfl
  · obtain ⟨out, hok, hlen, hbytes⟩ := State.blendOutcome_of_digits hcap hl hd
    rw [hok, s.commit_issued_ok]
    refine ⟨⟨_, by rw [hlen]⟩, fun g hg a aa b ba ha haa hb hba => ?_, fun k hk => ?_⟩
    · exact State.endedWell_outByte_of_some (hbytes g hg a aa b ba ha haa hb hba) _
    · exact State.endedWell_outByte_beyond (by omega) _

end Sys2Proof.Machine
end

section
/-! SUPPORT. The groups of blended decoding (spec/41_alpha_compositor.md R137): output byte g is a function of the four
characters and the background byte of group g; and the spec's example of R144. -/

namespace Sys2Proof.Machine

/-- The output byte of a group with the characters `chars` at 0 to 3 and the background byte `bg`, none where one of
them is missing or no hex digit (R135, R136). -/
def groupByte (chars : Nat → Option Byte) (bg : Option Byte) : Option Byte := do
  let a ← (chars 0).bind lookup
  let aa ← (chars 1).bind lookup
  let b ← (chars 2).bind lookup
  let ba ← (chars 3).bind lookup
  let bg ← bg
  return blendNibbles a aa b ba bg

theorem groupByte_congr {chars chars' : Nat → Option Byte} (h : ∀ j < 4, chars j = chars' j) (bg : Option Byte) :
    groupByte chars bg = groupByte chars' bg := by
  rw [groupByte, groupByte, h 0 (by decide), h 1 (by decide), h 2 (by decide), h 3 (by decide)]

/-- A successful scan has looked each character up. -/
theorem scanDigits_ok_lookup {i : Nat} {cs : List Byte} {vs : List Nibble} (h : scanDigits i cs = .ok vs) (k : Nat) :
    cs[k]?.bind lookup = vs[k]? := by
  have hk : (cs.map lookup)[k]? = (vs.map some)[k]? := by rw [scanDigits_ok_iff.1 h]
  rw [List.getElem?_map, List.getElem?_map] at hk
  calc cs[k]?.bind lookup = (cs[k]?.map lookup).bind id := by rw [Option.bind_map, Function.id_comp]
    _ = vs[k]? := by rw [hk, Option.bind_map, Function.id_comp, Option.bind_fun_some]

/-- R137: output byte g of a success is that of its group. -/
theorem blendFn_ok_getElem? {fg bgs out : List Byte} (hok : blendFn fg bgs = .ok out) {g : Nat}
    (hg : g < out.length) : out[g]? = groupByte (fun j => fg[4 * g + j]?) bgs[g]? := by
  obtain ⟨hbgs, hfg⟩ := blendFn_ok_length hok
  obtain ⟨-, heq⟩ | ⟨-, i, -, heq⟩ | ⟨-, vs, hs, heq⟩ := blendFn_cases fg bgs <;> cases heq.symm.trans hok
  have hvs := scanDigits_length hs
  have hdigit (j : Nat) (hj : j < 4) : fg[4 * g + j]?.bind lookup = some (vs[4 * g + j]'(by omega)) := by
    rw [scanDigits_ok_lookup hs, List.getElem?_eq_getElem]
  have hbg : bgs[g]? = some (bgs[g]'(by omega)) := List.getElem?_eq_getElem _
  rw [groupByte, hdigit 0 (by decide), hdigit 1 (by decide), hdigit 2 (by decide), hdigit 3 (by decide), hbg]
  exact blendGroups_getElem? (List.getElem?_eq_getElem _) (List.getElem?_eq_getElem _) (List.getElem?_eq_getElem _)
    (List.getElem?_eq_getElem _) hbg

/-- Settles O16: both bytes are `groupByte` of the same group. -/
theorem blendByteDependsOnItsGroupOnly : Obligations.BlendByteDependsOnItsGroupOnly := by
  intro fg fg' bgs bgs' out out' g hok hok' hg hg' hchars hbg
  calc out[g]? = groupByte (fun j => fg[4 * g + j]?) bgs[g]? := blendFn_ok_getElem? hok hg
    _ = groupByte (fun j => fg'[4 * g + j]?) bgs'[g]? := by rw [groupByte_congr hchars, hbg]
    _ = out'[g]? := (blendFn_ok_getElem? hok' hg').symm

/-- Settles O17: the digits 1, F, 2, F are packed in pairs by DECODE, and blended as one group by BLEND. -/
theorem blendIsNotDecode : Obligations.BlendIsNotDecode := by
  have hs : scanDigits 0 [0x31#8, 0x66#8, 0x32#8, 0x66#8] = .ok [0x1#4, 0xF#4, 0x2#4, 0xF#4] :=
    scanDigits_ok_iff.2 (by decide)
  exact ⟨decodeFn_of_digits rfl (scanDigits_ok_iff.1 hs), blendFn_of_scan_ok rfl hs⟩

end Sys2Proof.Machine
end

section
/-! SUPPORT. Runs of host and engine turns: an induction over the turns, said once; then the result stays until the next
command (spec/20_memory.md R66), and every command ends (spec/42_command_control.md R165). -/

namespace Sys2Proof.Machine

/-! ### Runs, by induction on the turns -/

section
variable {P : State → Prop} {Q : Event → Prop} (hevents : ∀ s es, P s → P (s.withEvents es))
  (hturn : ∀ s e t, P s → Q e → Takes s e t → P t)
include hevents hturn

/-- A run takes its turns `es` one by one to a state with none left, and then goes on from there: what every turn of
`es` keeps holds in that state. -/
theorem run_turns (es : List Event) {s : State} (hs : P s) (hes : ∀ e ∈ es, Q e) :
    ∃ t, (∀ n, Host.Core.run Sys2Proof.core (es.length + n) (s.withEvents es) = Host.Core.run Sys2Proof.core n t) ∧
      P t ∧ t.events = [] := by
  induction es generalizing s with
  | nil => exact ⟨s.withEvents [], fun n => by rw [List.length_nil, Nat.zero_add], hevents s [] hs, rfl⟩
  | cons e es ih =>
    obtain ⟨u, hu⟩ := deliver_next e (s.withEvents es)
    have htakes := deliver_takes hu
    have hPu : P u := hturn _ e u (hevents s es hs) (hes e List.mem_cons_self) htakes
    have hself : u = u.withEvents es := by
      have : u.events = es := htakes.events_eq
      rw [← this]
      rfl
    obtain ⟨t, hrun, hPt, ht⟩ := ih hPu fun e' he' => hes e' (List.mem_cons_of_mem e he')
    refine ⟨t, fun n => ?_, hPt, ht⟩
    have hstep : step (s.withEvents (e :: es)) = .next u := (step_of_turn rfl).trans hu
    rw [List.length_cons, Nat.add_right_comm, core_run_of_step hstep, hself, hrun]

end

/-! ### The result stays (R66) -/

/-- `t` shows the result of `s`: its status and OUT_MEM. -/
structure State.SameResult (s t : State) : Prop extends s.SameStatus t where
  outMem : t.outMem = s.outMem

theorem State.SameResult.trans {s t u : State} (h : s.SameResult t) (k : t.SameResult u) : s.SameResult u :=
  ⟨h.toSameStatus.trans k.toSameStatus, k.outMem.trans h.outMem⟩

/-- Without a pending command a turn of the host or the engine that is no write of CMD keeps the status. -/
theorem Takes.sameStatus {s t : State} {e : Event} (h : Takes s e t) (hp : s.pendingOp = .none)
    (ha : e.isAgentTurn = true) (hc : e.writesRegister .cmd = false) : s.SameStatus t := by
  cases h.statusEffect with
  | keeps h => exact h
  | clears hw hc' hb h | accepts op hop hw hc' h | illegal hw hb h => exact nomatch hc.symm.trans hw
  | completes r he hp' ho h => exact absurd hp hp'
  | resets he h =>
    cases e with
    | host x => exact nomatch he
    | engine => exact nomatch he
    | _ => exact nomatch ha

/-- Such a turn keeps OUT_MEM too: the turns that change it are a completion and the platform's. -/
theorem Takes.sameResult {s t : State} {e : Event} (h : Takes s e t) (hp : s.pendingOp = .none)
    (ha : e.isAgentTurn = true) (hc : e.writesRegister .cmd = false) : s.SameResult t := by
  refine ⟨h.sameStatus hp ha hc, ?_⟩
  obtain heq | ⟨-, hp', -⟩ | ⟨rfl, -⟩ | rfl := h.outMem_eq
  · exact heq
  · exact absurd hp hp'
  · exact nomatch ha
  · exact nomatch ha

/-- Settles O28: with BUSY = 0 no command is pending, and each of the turns keeps the status and OUT_MEM. -/
theorem resultIsStableUntilTheNextCommand : Obligations.ResultIsStableUntilTheNextCommand := by
  intro s es hb hpending hes
  have hp : s.pendingOp = .none := by
    by_contra hne
    exact nomatch hb.symm.trans (hpending.1 hne)
  have hevents (u : State) (es' : List Event) (hu : s.SameResult u) : s.SameResult (u.withEvents es') :=
    hu.trans ⟨by constructor <;> rfl, rfl⟩
  have hkeeps (u : State) (e : Event) (t : State) (hu : s.SameResult u)
      (he : e.isAgentTurn = true ∧ e.writesRegister .cmd = false) (h : Takes u e t) : s.SameResult t := by
    obtain ⟨ha, hc⟩ := he
    exact hu.trans (h.sameResult (hu.pendingOp.trans hp) ha hc)
  obtain ⟨t, hrun, ht, -⟩ := run_turns hevents hkeeps es ⟨.refl s, rfl⟩ hes
  exact ⟨t, hrun 0, ht.outMem, ht.outLen, ht.errPos, ht.statusWord⟩

/-! ### Every command ends (R165) -/

theorem Takes.rst_of_agentTurn {s t : State} {e : Event} (h : Takes s e t) (ha : e.isAgentTurn = true) :
    t.rst = s.rst := by
  cases h with
  | assertReset | releaseReset | powerOn => exact nomatch ha
  | complete r hr hp ho => cases r <;> rfl
  | hexWord a v i hr hb hi hadr => rw [State.setHexWord_eq]; rfl
  | bgWord a v i hr hb hi hadr => rw [State.setBgWord_eq]; rfl
  | _ => rfl

/-- The engine's turn completes the pending command, if there is one. -/
theorem State.engineTurn_busy {s : State} (hr : s.rst = false) (hpending : s.PendingWhileBusy) :
    s.engineTurn.busy = false := by
  obtain ⟨hidle, he⟩ | ⟨-, -, r, -, he⟩ := s.engineTurn_cases
  · rw [he]
    exact Bool.eq_false_iff.2 fun hb => hidle.elim (fun hr' => nomatch hr.symm.trans hr') (hpending.2 hb)
  · rw [he]
    cases r <;> rfl

/-- Settles O29: the scheduled turns keep RST deasserted and PENDING_OP with BUSY, and the turn after them is the
engine's. -/
theorem everyCommandEnds : Obligations.EveryCommandEnds := by
  intro s hr hpending hes
  have hkeeps (u : State) (e : Event) (t : State) (hu : u.rst = false ∧ u.PendingWhileBusy)
      (ha : e.isAgentTurn = true) (h : Takes u e t) : t.rst = false ∧ t.PendingWhileBusy := by
    obtain ⟨hru, hpu⟩ := hu
    exact ⟨(h.rst_of_agentTurn ha).trans hru, h.statusEffect.pendingWhileBusy hpu⟩
  obtain ⟨t, hrun, ⟨hrt, hpt⟩, ht⟩ := run_turns (fun _ _ hu => hu) hkeeps s.events ⟨hr, hpending⟩ hes
  have hlast : Host.Core.run Sys2Proof.core 1 t = .next t.engineTurn := core_run_of_step (step_of_no_turn ht)
  have hevents : t.engineTurn.events = [] := (engineTurn_takes t).events_eq.trans ht
  exact ⟨t.engineTurn, (hrun 1).trans hlast, State.engineTurn_busy hrt hpt, hevents⟩

end Sys2Proof.Machine
end

section
/-! SUPPORT. The host port, transaction by transaction: reads have no side effect (spec/20_memory.md R63), a 32-bit read
is little-endian (R54), the input windows byte by byte (R59, R60), and the register fields as they are read and written
(spec/10_state.md R30, R32 to R36). -/

namespace Sys2Proof.Machine

/-! ### Reads (R63) -/

/-- Settles O36: the answer depends on the data that is read, and no datum is read from the port's last answer. -/
theorem readsHaveNoSideEffect : Obligations.ReadsHaveNoSideEffect := by
  intro s x hx
  cases x with
  | rd8 a =>
    obtain ⟨r, hr⟩ := answerRead8_uniform (s.read8 a)
    have hagain : State.read8 { s with response := r } a = s.read8 a := rfl
    refine ⟨r, ?_, ?_⟩
    · rw [deliver, transact, hr]
    · rw [deliver, transact, hagain, hr]
  | rd32 a =>
    obtain ⟨r, hr⟩ := answerRead32_uniform (s.read32 a)
    have hagain : State.read32 { s with response := r } a = s.read32 a := rfl
    refine ⟨r, ?_, ?_⟩
    · rw [deliver, transact, hr]
    · rw [deliver, transact, hagain, hr]
  | wr8 a v => exact nomatch hx
  | wr32 a v => exact nomatch hx

/-! ### The byte order of RD32 (R54) -/

theorem toNat_zeroExtend_byte (b : Byte) : (b.zeroExtend 32).toNat = b.toNat := by
  have := b.isLt
  rw [BitVec.toNat_setWidth, Nat.mod_eq_of_lt (by omega)]

/-- A byte put above the bits of `lo` adds its multiple. -/
theorem toNat_or_byte {lo : Word} {k : Nat} (b : Byte) (hlo : lo.toNat < 2 ^ k) (hk : k ≤ 24) :
    (lo ||| (b.zeroExtend 32 <<< k)).toNat = lo.toNat + b.toNat * 2 ^ k := by
  have hb := b.isLt
  have hfit : b.toNat * 2 ^ k < 2 ^ 32 :=
    calc b.toNat * 2 ^ k < 2 ^ 8 * 2 ^ k := Nat.mul_lt_mul_of_pos_right hb (Nat.two_pow_pos k)
      _ ≤ 2 ^ 8 * 2 ^ 24 := Nat.mul_le_mul_left _ (Nat.pow_le_pow_right (by decide) hk)
      _ = 2 ^ 32 := by decide
  have hshift : (b.zeroExtend 32 <<< k).toNat = b.toNat <<< k := by
    rw [BitVec.toNat_shiftLeft, toNat_zeroExtend_byte, Nat.shiftLeft_eq, Nat.mod_eq_of_lt hfit]
  rw [BitVec.toNat_or, hshift, Nat.or_comm, ← Nat.shiftLeft_add_eq_or_of_lt hlo, Nat.shiftLeft_eq, Nat.add_comm]

theorem joinBytes_toNat (b0 b1 b2 b3 : Byte) :
    (joinBytes b0 b1 b2 b3).toNat = b0.toNat + b1.toNat * 2 ^ 8 + b2.toNat * 2 ^ 16 + b3.toNat * 2 ^ 24 := by
  have h0 := b0.isLt
  have h1 := b1.isLt
  have h2 := b2.isLt
  have hlow := toNat_zeroExtend_byte b0
  have hone := toNat_or_byte (k := 8) b1 (hlow.trans_lt h0) (by decide)
  rw [hlow] at hone
  have htwo := toNat_or_byte (k := 16) b2 (hone.trans_lt (by omega)) (by decide)
  rw [hone] at htwo
  have hthree := toNat_or_byte (k := 24) b3 (htwo.trans_lt (by omega)) (by decide)
  rw [htwo] at hthree
  exact hthree

theorem State.read8_eq_some {s : State} {a : Half} {b : Byte} (h : s.read8 a = some b) :
    s.rst = false ∧ s.byteAt a = some b := by
  cases hr : s.rst with
  | false => exact ⟨rfl, (s.read8_open a hr).symm.trans h⟩
  | true =>
    rw [State.read8, hr] at h
    exact nomatch h

/-- The register block has no bytes (R52). -/
theorem State.window_of_byteAt {s : State} {a : Half} {b : Byte} (h : s.byteAt a = some b) : 0x0100 ≤ a.toNat := by
  obtain ⟨r, -, hl⟩ | ⟨_, ha, -⟩ | ⟨_, -, ha, -⟩ | ⟨_, -, ha, -⟩ | ⟨_, -, ha, -⟩ | ⟨hl, -⟩ := s.locate_cases a
  · rw [State.byteAt, hl] at h
    exact nomatch h
  · omega
  · omega
  · omega
  · omega
  · rw [State.byteAt, hl] at h
    exact nomatch h

/-- Settles O41: bytes lie in the windows only, where an aligned RD32 joins the four of them. -/
theorem wordReadsAreLittleEndian : Obligations.WordReadsAreLittleEndian := by
  intro s a b0 b1 b2 b3 ha h0 h1 h2 h3
  obtain ⟨hr, h0⟩ := State.read8_eq_some h0
  obtain ⟨-, h1⟩ := State.read8_eq_some h1
  obtain ⟨-, h2⟩ := State.read8_eq_some h2
  obtain ⟨-, h3⟩ := State.read8_eq_some h3
  have hword : s.read32 a = some (joinBytes b0 b1 b2 b3) := by
    rw [State.read32_window hr ha (State.window_of_byteAt h0), State.wordAt, h0, h1, h2, h3]
    rfl
  exact ⟨_, deliver_rd32 hword, joinBytes_toNat b0 b1 b2 b3⟩

/-! ### The input windows (R59, R60) -/

theorem deliver_wr8_hex {s : State} {i : Nat} (v : Byte) (hr : s.rst = false) (hb : s.busy = false)
    (hi : i < s.hexCap) :
    deliver (.host (.wr8 (BitVec.ofNat 16 (0x4000 + i)) v)) s =
      .next { s with hexMem := s.hexMem.write i v, response := .ack } := by
  have hcap := s.hexCap_bounds
  refine deliver_wr8 (t := s.setHexByte i v) ?_
  rw [State.write8_open _ _ hr, State.storeByte_hex v hb (half_toNat_of_lt (by omega)) hi]

theorem deliver_wr8_bg {s : State} {i : Nat} (v : Byte) (hr : s.rst = false) (hb : s.busy = false)
    (hi : i < s.bgCap) :
    deliver (.host (.wr8 (BitVec.ofNat 16 (0x8000 + i)) v)) s =
      .next { s with bgMem := s.bgMem.write i v, response := .ack } := by
  have hcap := s.hexCap_bounds
  have hbg := s.bgCap_four
  refine deliver_wr8 (t := s.setBgByte i v) ?_
  rw [State.write8_open _ _ hr, State.storeByte_bg v hb (half_toNat_of_lt (by omega)) hi]

/-- Settles O43: reads and writes of both windows are answered as the address map says. -/
theorem inputWindowsReadAndWriteBytes : Obligations.InputWindowsReadAndWriteBytes := by
  intro s i v hr
  exact ⟨fun hi => ⟨deliver_rd8_hex hr hi, fun hb =>
      ⟨_, deliver_wr8_hex v hr hb hi, fun j => Buffer.read_write .hex s.hexMem i j v⟩⟩,
    fun hi => ⟨deliver_rd8_bg hr hi, fun hb =>
      ⟨_, deliver_wr8_bg v hr hb hi, fun j => Buffer.read_write .bg s.bgMem i j v⟩⟩⟩

/-! ### Register fields as they are read (R30, R32 to R36) -/

theorem State.statusWord_flags (s : State) :
    s.statusWord.getLsbD 0 = s.busy ∧ s.statusWord.getLsbD 1 = s.done ∧ s.statusWord.getLsbD 2 = s.err := by
  simp [State.statusWord]

theorem State.statusWord_errCode (s : State) : s.statusWord.extractLsb' 8 4 = s.errCode := by
  ext i hi
  interval_cases i <;> simp [State.statusWord]

/-- A reserved field reads 0: the word shows nothing outside a mask, and the mask has no bit of the field. -/
theorem extractLsb'_of_masked {w m : Word} {k n : Nat} (hw : w &&& ~~~m = 0#32) (hm : m.extractLsb' k n = 0#n) :
    w.extractLsb' k n = 0#n := by
  have hmasked : w = w &&& m := by
    rw [← BitVec.or_zero (x := w &&& m), ← hw, ← BitVec.and_or_distrib_left, BitVec.or_not_self, BitVec.and_allOnes]
  rw [hmasked, BitVec.extractLsb'_and, hm, BitVec.and_zero]

theorem halfWord_fields (v : Half) : (halfWord v).extractLsb' 0 16 = v ∧ (halfWord v).extractLsb' 16 16 = 0#16 := by
  refine ⟨?_, extractLsb'_of_masked (halfWord_reserved v) (by decide)⟩
  ext i hi
  simp [halfWord, BitVec.getLsbD_eq_getElem hi, show i < 32 by omega]

/-- Settles O38: each register is read as its word, whose fields stand at their bits and whose reserved bits are those
outside `fieldMask`. -/
theorem fieldRegistersRead : Obligations.FieldRegistersRead := by
  intro s hr
  have hread {r : Reg} {w : Word} (hw : s.readRegister r = some w) := deliver_rd32_register hr hw
  obtain ⟨hbusy, hdone, herr⟩ := s.statusWord_flags
  refine ⟨⟨s.statusWord, hread (r := .status) rfl, hbusy, hdone, herr, ?_, s.statusWord_errCode, ?_⟩,
    ⟨s.ctrlWord, hread (r := .ctrl) rfl, ?_, ?_⟩, ⟨_, hread (r := .errPos) rfl, halfWord_fields _⟩,
    ⟨_, hread (r := .hexLen) rfl, halfWord_fields _⟩, ⟨_, hread (r := .bgLen) rfl, halfWord_fields _⟩,
    ⟨_, hread (r := .outLen) rfl, halfWord_fields _⟩⟩
  · exact extractLsb'_of_masked s.statusWord_reserved (by decide)
  · exact extractLsb'_of_masked s.statusWord_reserved (by decide)
  · simp [State.ctrlWord]
  · exact extractLsb'_of_masked s.ctrlWord_reserved (by decide)

/-! ### Register fields as they are written (R30, R34, R35) -/

/-- A WR32 of a register that stores its data is acknowledged. -/
theorem deliver_wr32_register {s t : State} {r : Reg} {v : Word} (hr : s.rst = false)
    (hw : s.writeRegister v r = some t) :
    deliver (.host (.wr32 (regOffset r) v)) s = .next { t with response := .ack } := by
  have hcmd : regOffset r ≠ regOffset .cmd := by
    intro heq
    cases regOffset_inj.1 (congrArg BitVec.toNat heq)
    exact nomatch hw
  refine deliver_wr32 hcmd ?_
  rw [State.write32, if_neg (by simp [hr, regOffset_aligned]), s.locate_register]
  exact hw

/-- Settles O40: each of the three registers stores its field, the lengths while BUSY = 0. -/
theorem controlAndLengthWritesStore : Obligations.ControlAndLengthWritesStore := by
  intro s v hr
  refine ⟨deliver_wr32_register (r := .ctrl) hr rfl, fun hb => ⟨?_, ?_⟩⟩
  · exact deliver_wr32_register (r := .hexLen) (t := s.setHexLen (v.extractLsb' 0 16)) hr (if_neg (by simp [hb]))
  · exact deliver_wr32_register (r := .bgLen) (t := s.setBgLen (v.extractLsb' 0 16)) hr (if_neg (by simp [hb]))

end Sys2Proof.Machine
end

section
/-! SUPPORT. Reset and power-on (spec/70_reset_and_hazards.md R210, R212, R213), and the machine right after reset. -/

namespace Sys2Proof.Machine

/-- R210: STATUS reads 0 while every flag and the error code are 0. -/
theorem State.statusWord_assertReset (s : State) : s.assertReset.statusWord = 0x00000000#32 := by
  rw [State.statusWord, s.assertReset_busy, s.assertReset_done, s.assertReset_err, s.assertReset_errCode]
  rfl

/-- Settles O47: OUT_MEM is redrawn only where a command was in progress. -/
theorem resetSetsTheRegisters : Obligations.ResetSetsTheRegisters := by
  refine fun s => ⟨s.assertReset.outMem, rfl, fun hb => ?_, s.assertReset_irq, s.statusWord_assertReset⟩
  rw [s.assertReset_outMem, hb]
  rfl

/-- Settles O48: while busy the reset redraws OUT_MEM, and each of its bytes is then the free value of the new draw. -/
theorem resetWhileBusyRedrawsTheOutput : Obligations.ResetWhileBusyRedrawsTheOutput := by
  intro s hb
  refine ⟨s.assertReset_done, s.assertReset_err, s.assertReset_outLen, s.assertReset_pendingOp, s.assertReset_hexMem,
    s.assertReset_bgMem, fun i => ?_⟩
  rw [State.outByte, s.assertReset_outMem, hb]
  exact Buffer.read_redraw .out s.outMem i

/-- Settles O49: power-on redraws the three buffers. -/
theorem powerOnRedrawsTheBuffers : Obligations.PowerOnRedrawsTheBuffers :=
  fun s => ⟨s.powerOn, rfl, rfl, Buffer.read_redraw .hex s.hexMem, Buffer.read_redraw .bg s.bgMem,
    Buffer.read_redraw .out s.outMem⟩

/-- Settles O51: the fields of `State.reset`, and IRQ by `State.irq_of_no_result`. -/
theorem resetStateHoldsTheResetValues : Obligations.ResetStateHoldsTheResetValues :=
  ⟨rfl, rfl, rfl, rfl, rfl, rfl, rfl, State.irq_of_no_result rfl rfl, rfl, rfl, rfl⟩

end Sys2Proof.Machine
end
